-- ==== Sys2Proof/Word.lean ====
section
/-! DEFINITION. The widths the spec gives its values: 00_scope.md R7, 10_state.md section 1, 30_encoding.md R46.
All values are unsigned (R7). -/

namespace Sys2Proof

/-- An 8-bit value: a register, a byte of Memory, a timer, the immediate `kk`, a draw. -/
abbrev Byte := BitVec 8

/-- A 16-bit value: an instruction word, `I`, `pc`, a stack slot. -/
abbrev Word := BitVec 16

/-- A 4-bit field: a register number `x` or `y`, the height or sub-opcode `n`. -/
abbrev Nibble := BitVec 4

/-- The 12-bit field `nnn`. -/
abbrev Addr := BitVec 12

end Sys2Proof
end

