-- ==== Sys2Proof/Config.lean ====
section
/-! DEFINITION. The implementation parameters of 00_scope.md R5 that a definition uses by name, and the free value.
The font table, the other open parameter, is in Sys2Proof/Machine/Font.lean (notes/assumptions/2.md). -/

namespace Sys2Proof

/-- MEM_SIZE: 4096 bytes, addresses 0x000 to 0xFFF (R5, 20_memory.md R30). -/
abbrev Config.memSize : Nat := 4096

/-- PROG_BASE: where the program is loaded, and PC_RESET (R5, 10_state.md R13). -/
abbrev Config.progBase : Nat := 0x200

/-- PROG_MAX_LEN: 4096 - 0x200 = 3584 bytes (R5, 20_memory.md R43). -/
abbrev Config.progMaxLen : Nat := 3584

/-- The draws `rnd` (41_alu.md R84, 92_eei_decisions.md D21): draw number `k` is `Config.rnd k`, under no law.
No body: nothing can be proved of any draw, so what is proved holds for every sequence of draws.
DESIGN CHOICE, safe: notes/assumptions/1.md. -/
opaque Config.rnd : Nat → Byte

end Sys2Proof
end

