-- ==== Sys2Proof/Syntax.lean ====
section
/-! DEFINITION. The instructions: one constructor per row of spec/opcode_table.json (30_encoding.md R49), with the
operands that R50 gives each. A word that is no row's is no `Instr`: the decoder rejects it by name. -/

namespace Sys2Proof

/-- The 35 instructions of 30_encoding.md R49, in the table's order. The fields are those of R46; `shr` and `shl` keep
their ignored field `y` (R78, R80), so that an instruction has exactly one word. -/
inductive Instr where
  | cls
  | ret
  | sys (nnn : Addr)
  | jp (nnn : Addr)
  | call (nnn : Addr)
  | seImm (x : Nibble) (kk : Byte)
  | sneImm (x : Nibble) (kk : Byte)
  | seReg (x y : Nibble)
  | ldImm (x : Nibble) (kk : Byte)
  | addImm (x : Nibble) (kk : Byte)
  | ldReg (x y : Nibble)
  | orReg (x y : Nibble)
  | andReg (x y : Nibble)
  | xorReg (x y : Nibble)
  | addReg (x y : Nibble)
  | subReg (x y : Nibble)
  | shr (x y : Nibble)
  | subn (x y : Nibble)
  | shl (x y : Nibble)
  | sneReg (x y : Nibble)
  | ldI (nnn : Addr)
  | jpV0 (nnn : Addr)
  | rnd (x : Nibble) (kk : Byte)
  | drw (x y n : Nibble)
  | skp (x : Nibble)
  | sknp (x : Nibble)
  | ldVxDt (x : Nibble)
  | ldVxK (x : Nibble)
  | ldDtVx (x : Nibble)
  | ldStVx (x : Nibble)
  | addI (x : Nibble)
  | ldF (x : Nibble)
  | ldB (x : Nibble)
  | dump (x : Nibble)
  | load (x : Nibble)
  deriving DecidableEq, Repr

/-- Why the decoder gives no instruction. -/
inductive DecodeReject where
  /-- `Unknown(w)` of 30_encoding.md R50: no row of the table has this word. The Step executes it as a counted no-op
  (45_unknown.md R109). -/
  | unknown (w : Word)
  /-- Fewer than the two bytes of an instruction (R45). A Step never meets it: a fetch reads two bytes. -/
  | truncated
  deriving DecidableEq, Repr

end Sys2Proof
end

