-- ==== Sys2Proof/Machine/State.lean ====
section
/-! DEFINITION. The state of the machine as plain data: every piece of the summary table of 10_state.md section 1, and
one field of the model's own (`draws`). `State.reset` is the state after `Reset` with the empty program (R26, R131). -/

namespace Sys2Proof.Machine

/-- Memory as a list of (address, byte) pairs. Its canonical form is `Memory.wf` (Sys2Proof/Machine/Memory.lean); what
an unlisted address reads as is `Memory.background`, the reset contents. DESIGN CHOICE, safe: notes/assumptions/6.md. -/
abbrev Memory := List Host.Cell

/-- The framebuffer: 32 rows of 64 one-bit pixels; bit x of row y is `FB[y][x]` (10_state.md R18). -/
abbrev Framebuffer := Vector (BitVec 64) 32

/-- The `status` register (10_state.md R20). The fourth value of its two bits never occurs. -/
inductive Status where
  /-- 0: the last Step completed an instruction, or there has been none since Reset. -/
  | running
  /-- 1: the last Step executed wait-for-key with no key pressed. -/
  | blockedOnKey
  /-- 2: a Step raised a fault. -/
  | halted
  deriving DecidableEq, Repr

/-- The `fault_cause` register (10_state.md R21) by the names of 60_exceptions.md R112; its codes are `FaultCause.code`. -/
inductive FaultCause where
  /-- 0: no fault since Reset. -/
  | noFault
  /-- 1: CALL with sixteen return addresses held. -/
  | stackOverflow
  /-- 2: RET with none held. -/
  | stackUnderflow
  /-- 3: a Step with pc above 0xFFE. -/
  | fetchRange
  /-- 4: DRW or register-load past 0xFFF. -/
  | memReadRange
  /-- 5: store-BCD or register-dump past 0xFFF. -/
  | memWriteRange
  /-- 6: a key skip with a key index above 15. -/
  | keyIndexRange
  /-- 7: set-address-to-glyph with a digit above 15. -/
  | glyphIndexRange
  deriving DecidableEq, Repr

/-- The architectural state (10_state.md). The forms of the fields are a DESIGN CHOICE, safe: notes/assumptions/7.md. -/
structure State where
  /-- `V[0..15]`, V[15] doubling as the flag VF (R10, R11). -/
  v : Vector Byte 16
  /-- `I` (R12). -/
  i : Word
  /-- `pc` (R13). -/
  pc : Word
  /-- `STACK[0..15]` (R14). -/
  stack : Vector Word 16
  /-- `SP`, 0..16: how many return addresses are held (R15). -/
  sp : Fin 17
  /-- `DT` (R16). -/
  dt : Byte
  /-- `ST` (R16). -/
  st : Byte
  /-- `KEY[0..15]`: bit k is KEY[k] (R17, 60_exceptions.md R123). -/
  key : BitVec 16
  /-- `FB` (R18). -/
  fb : Framebuffer
  /-- `dirty` (R19). -/
  dirty : Bool
  /-- `status` (R20). -/
  status : Status
  /-- `fault_cause` (R21). -/
  faultCause : FaultCause
  /-- `fault_pc` (R21). -/
  faultPc : Word
  /-- `fault_info` (R21). -/
  faultInfo : Word
  /-- `unk_count`, unbounded (R22). -/
  unkCount : Nat
  /-- `MEM` (R23). -/
  mem : Memory
  /-- The model's own: how many draws have been taken, so that the next RND takes a fresh one (41_alu.md R84;
  DESIGN CHOICE, safe: notes/assumptions/1.md). -/
  draws : Nat
  deriving DecidableEq, Repr

/-- The `fault` outcome of the interface. No Step and no move of any agent gives it: every fault of the spec is the
state change of 60_exceptions.md R113, a next state. -/
inductive Fault where
  /-- Raised by the host's view `readMem` alone, for an address outside 0x000..0xFFF: the spec says no such address
  exists (20_memory.md R30, 60_exceptions.md R126). Safe: the view changes no state. -/
  | noSuchAddress (a : Nat)
  deriving DecidableEq, Repr

/-- The `refused` outcome of the interface. -/
inductive Refusal where
  /-- Raised by an arm of exec that has no meaning yet. There is none. Safe. -/
  | notModelled (mnemonic : String)
  /-- Raised by the host's `Reset` for a program of more than 3584 bytes: the spec's own refusal (20_memory.md R43,
  70_reset_and_hazards.md R131). Safe: the spec says that no state changes. -/
  | programTooLong (len : Nat)
  deriving DecidableEq, Repr

/-- The machine after `Reset` with the empty program: everything zero but pc and the font region (10_state.md R26,
70_reset_and_hazards.md R131). Memory lists nothing: an unlisted address reads as its reset contents. -/
def State.reset : State where
  v := Vector.replicate 16 0#8
  i := 0#16
  pc := 0x200#16
  stack := Vector.replicate 16 0#16
  sp := 0
  dt := 0#8
  st := 0#8
  key := 0#16
  fb := Vector.replicate 32 0#64
  dirty := false
  status := .running
  faultCause := .noFault
  faultPc := 0#16
  faultInfo := 0#16
  unkCount := 0
  mem := []
  draws := 0

end Sys2Proof.Machine
end

