-- ==== Sys2Proof/Machine/Memory.lean ====
section
/-! DEFINITION. The operations on Memory (20_memory.md): one byte read, one byte written, and a run of bytes at
ascending addresses. None checks the range 0x000..0xFFF: as in R8, the caller does. -/

namespace Sys2Proof.Machine

/-- What an address that nothing has written reads as: the reset contents with the default font and the empty program
(R35, 10_state.md R26). -/
def Memory.background (a : Nat) : Byte :=
  if h : a < 80 then defaultFont[a] else 0#8

/-- `MemRead(a, 1)` (00_scope.md R8). -/
def Memory.read : Memory → Nat → Byte
  | [], a => Memory.background a
  | (k, b) :: m, a => if k = a then b else Memory.read m a

/-- The list with the byte at `a` listed as `b`, in the place that its address has. -/
def Memory.insert : Memory → Nat → Byte → Memory
  | [], a, b => [(a, b)]
  | (k, c) :: m, a, b =>
    if k < a then (k, c) :: Memory.insert m a b
    else if k = a then (a, b) :: m
    else (a, b) :: (k, c) :: m

/-- The list without the address `a`. -/
def Memory.erase (m : Memory) (a : Nat) : Memory := m.filter fun c => c.1 != a

/-- `MemWrite(a, 1, b)` (00_scope.md R8): a byte equal to what the address reads as unlisted is not listed. -/
def Memory.write (m : Memory) (a : Nat) (b : Byte) : Memory :=
  if b = Memory.background a then Memory.erase m a else Memory.insert m a b

/-- The bytes `bs` written at `a`, `a + 1`, ... The addresses differ, so the order of the writes does not show (R41). -/
def Memory.writeBytes (m : Memory) (a : Nat) : List Byte → Memory
  | [] => m
  | b :: bs => Memory.write (Memory.writeBytes m (a + 1) bs) a b

/-- The bytes at `a`, ..., `a + count - 1`. -/
def Memory.readBytes (m : Memory) (a count : Nat) : List Byte :=
  (List.range count).map fun k => Memory.read m (a + k)

/-- The canonical form: addresses strictly rising, all in 0x000..0xFFF, and no entry that reads as it would unlisted. -/
abbrev Memory.wf (m : Memory) : Prop :=
  m.Pairwise (fun c d => c.1 < d.1) ∧ ∀ c ∈ m, c.1 < Config.memSize ∧ c.2 ≠ Memory.background c.1

/-- The range check of R38: the `count` bytes from `a` lie in 0x000..0xFFF, computed without wrap; no byte, no check. -/
def rangeOk (a : Word) (count : Nat) : Bool :=
  decide (count = 0 ∨ a.toNat + count - 1 ≤ 0xFFF)

end Sys2Proof.Machine
end

