-- ==== Sys2Proof/Machine/Ops.lean ====
section
/-! DEFINITION. The named operations on the state that the meanings share: register access, the program counter and
the end of a Step (30_encoding.md R52), fault entry (60_exceptions.md R113), the stack (10_state.md R15), the counters.
There is no return from a fault to put beside its entry: only `Reset` leaves HALTED (R115). -/

namespace Sys2Proof.Machine

/-- `V[x]` (00_scope.md R8). -/
def State.reg (s : State) (x : Nibble) : Byte := s.v[x.toNat]'(x.isLt)

/-- `V[x] <- b`. -/
def State.setReg (s : State) (x : Nibble) (b : Byte) : State := { s with v := s.v.set x.toNat b x.isLt }

/-- All sixteen registers replaced, as a register-load does. -/
def State.setRegs (s : State) (v : Vector Byte 16) : State := { s with v := v }

/-- `I <- a`. -/
def State.setI (s : State) (a : Word) : State := { s with i := a }

/-- `DT <- b`. -/
def State.setDt (s : State) (b : Byte) : State := { s with dt := b }

/-- `ST <- b`. -/
def State.setSt (s : State) (b : Byte) : State := { s with st := b }

/-- `MEM` replaced. -/
def State.setMem (s : State) (m : Memory) : State := { s with mem := m }

/-- `FB` replaced and `dirty <- 1`, as clear-screen and draw-sprite do (10_state.md R19). -/
def State.paint (s : State) (fb : Framebuffer) : State := { s with fb := fb, dirty := true }

/-- `unk_count <- unk_count + 1` (10_state.md R22). -/
def State.countUnknown (s : State) : State := { s with unkCount := s.unkCount + 1 }

/-- The draw of this Step (41_alu.md R84). -/
def State.draw (s : State) : Byte := Config.rnd s.draws

/-- The draw is used up. -/
def State.takeDraw (s : State) : State := { s with draws := s.draws + 1 }

/-- Outcome (a) of R52: the instruction completes with `pc <- target` and `status <- RUNNING`. That the meanings write
`status` is a DESIGN CHOICE, safe: notes/assumptions/8.md. -/
def State.goTo (s : State) (target : Word) : State := { s with pc := target, status := .running }

/-- Completion with `pc <- pc + 2`, modulo 2^16 (10_state.md R13). -/
def State.advance (s : State) : State := s.goTo (s.pc + 2#16)

/-- Completion of a skip instruction: `pc <- pc + 4` when the condition holds, else `pc <- pc + 2` (40_flow.md R62). -/
def State.skipIf (s : State) (c : Bool) : State := if c then s.goTo (s.pc + 4#16) else s.advance

/-- Outcome (b) of R52: the instruction blocks; nothing but `status` changes (44_keys_timers.md R102). -/
def State.block (s : State) : State := { s with status := .blockedOnKey }

/-- Outcome (c) of R52, fault entry (60_exceptions.md R113): the record is written, the engine halts, nothing else
changes. Every fault goes through here. -/
def State.raiseFault (s : State) (cause : FaultCause) (info : Word) : State :=
  { s with faultCause := cause, faultPc := s.pc, faultInfo := info, status := .halted }

/-- Push (10_state.md R15): legal only when SP < 16. -/
def State.push (s : State) (w : Word) : Option State :=
  if h : s.sp.val < 16 then
    some { s with stack := s.stack.set s.sp.val w h, sp := ⟨s.sp.val + 1, by omega⟩ }
  else none

/-- Pop (10_state.md R15): legal only when SP > 0. The slot keeps its value (R14). -/
def State.pop (s : State) : Option (Word × State) :=
  if h : 0 < s.sp.val then
    some (s.stack[s.sp.val - 1]'(by omega), { s with sp := ⟨s.sp.val - 1, by omega⟩ })
  else none

/-- `SP` as the 16-bit `fault_info` of a stack fault (60_exceptions.md R112). -/
def State.spInfo (s : State) : Word := BitVec.ofNat 16 s.sp.val

/-- `KEY[k]`. -/
def State.keyDown (s : State) (k : Nat) : Bool := s.key.getLsbD k

/-- The code of a cause in the 3-bit register `fault_cause` (60_exceptions.md R112). -/
def FaultCause.code : FaultCause → BitVec 3
  | .noFault => 0#3
  | .stackOverflow => 1#3
  | .stackUnderflow => 2#3
  | .fetchRange => 3#3
  | .memReadRange => 4#3
  | .memWriteRange => 5#3
  | .keyIndexRange => 6#3
  | .glyphIndexRange => 7#3

/-- The code of a status in the 2-bit register `status` (10_state.md R20). -/
def Status.code : Status → BitVec 2
  | .running => 0#2
  | .blockedOnKey => 1#2
  | .halted => 2#2

end Sys2Proof.Machine
end

