-- ==== Sys2Proof/Machine/Flags.lean ====
section
/-! DEFINITION. The flag values that instructions write to VF (10_state.md R11, 41_alu.md R83) and the order of the two
writes (41_alu.md R70). -/

namespace Sys2Proof.Machine

/-- Register 15, the flag register VF (10_state.md R11). -/
abbrev regVF : Nibble := 15#4

/-- A flag is 0x00 or 0x01 as a whole register (10_state.md R11). -/
def flagByte (f : Bool) : Byte := if f then 1#8 else 0#8

/-- The carry of an addition: the nine-bit sum is over 0xFF (41_alu.md R76). -/
def carry (a b : Byte) : Bool := decide (0xFF < a.toNat + b.toNat)

/-- The not-borrow of `a - b`: minuend at least subtrahend (41_alu.md R77, R79). -/
def notBorrow (a b : Byte) : Bool := decide (b.toNat ≤ a.toNat)

/-- The bit that a right shift puts out: bit 0 (41_alu.md R78). -/
def shiftOutRight (a : Byte) : Bool := a.getLsbD 0

/-- The bit that a left shift puts out: bit 7 (41_alu.md R80). -/
def shiftOutLeft (a : Byte) : Bool := a.getLsbD 7

/-- `V[15] <- f`. -/
def State.setFlag (s : State) (f : Bool) : State := s.setReg regVF (flagByte f)

/-- The two writes of a flag-writing instruction: the result to `V[x]`, then the flag to `V[15]` (41_alu.md R70). -/
def State.setRegFlag (s : State) (x : Nibble) (result : Byte) (f : Bool) : State :=
  (s.setReg x result).setFlag f

end Sys2Proof.Machine
end

