-- ==== Sys2Proof/Machine/Operands.lean ====
section
/-! DEFINITION. The operand forms (30_encoding.md R48, 42_index_memory.md R88): immediates zero-extended to the width of
their use, registers as key and glyph indices, runs of registers and of bytes at `[I]`, sprite coordinates. -/

namespace Sys2Proof.Machine

/-- `zext_16(nnn)`. -/
def addrWord (nnn : Addr) : Word := nnn.setWidth 16

/-- `zext_16(V[x])`. -/
def byteWord (b : Byte) : Word := b.setWidth 16

/-- A register used as the index of one of sixteen things: the value if it is at most 0x0F, else none; never masked
(92_eei_decisions.md D11, D12). -/
def hexIndex (b : Byte) : Option Nat := if b.toNat ≤ 0x0F then some b.toNat else none

/-- The least pressed key, if any is (44_keys_timers.md R102). -/
def lowestKey (s : State) : Option Nat := (List.range 16).find? fun k => s.keyDown k

/-- The registers `V[0]` to `V[x]`, ascending (20_memory.md R33). -/
def regRun (s : State) (x : Nibble) : List Byte := s.v.toList.take (x.toNat + 1)

/-- How many registers a dump or load with field x moves: x + 1. -/
def runLength (x : Nibble) : Nat := x.toNat + 1

/-- The registers after `V[k] <- MemRead(I + k, 1)` for k = 0 to x (42_index_memory.md R91). -/
def loadedRegs (s : State) (x : Nibble) : Vector Byte 16 :=
  Vector.ofFn fun k => if k.val ≤ x.toNat then Memory.read s.mem (s.i.toNat + k.val) else s.v[k]

/-- The hundreds, tens and ones digits of a byte, in the order they are stored (42_index_memory.md R89). -/
def bcdDigits (b : Byte) : List Byte :=
  [BitVec.ofNat 8 (b.toNat / 100), BitVec.ofNat 8 (b.toNat / 10 % 10), BitVec.ofNat 8 (b.toNat % 10)]

/-- The address of a glyph: 5 times its digit, the font's base being 0 (42_index_memory.md R87). -/
def glyphAddr (d : Nat) : Word := BitVec.ofNat 16 (5 * d)

/-- `x0 = V[x] mod 64` (43_display.md R94). -/
def originX (b : Byte) : Nat := b.toNat % 64

/-- `y0 = V[y] mod 32` (43_display.md R94). -/
def originY (b : Byte) : Nat := b.toNat % 32

/-- The bytes of a sprite of height n, top row first: `I .. I + n - 1` (43_display.md R95). -/
def spriteBytes (s : State) (n : Nibble) : List Byte := Memory.readBytes s.mem s.i.toNat n.toNat

end Sys2Proof.Machine
end

