-- ==== Sys2Proof/Machine/Alu.lean ====
section
/-! DEFINITION. Register arithmetic, logic, shifts and random (41_alu.md). None can fault; every one ends with
`pc <- pc + 2`. The five flag-writing instructions read both operands before either write and write the flag last
(R70). -/

namespace Sys2Proof.Machine

/-- `LD Vx, kk` 6xkk (R71). -/
def execLdImm (x : Nibble) (kk : Byte) (s : State) : Host.Outcome State Fault Refusal :=
  .next (s.setReg x kk).advance

/-- `ADD Vx, kk` 7xkk: wraps modulo 256, no flag (R72). -/
def execAddImm (x : Nibble) (kk : Byte) (s : State) : Host.Outcome State Fault Refusal :=
  .next (s.setReg x (s.reg x + kk)).advance

/-- `LD Vx, Vy` 8xy0 (R73). -/
def execLdReg (x y : Nibble) (s : State) : Host.Outcome State Fault Refusal :=
  .next (s.setReg x (s.reg y)).advance

/-- `OR Vx, Vy` 8xy1 (R74). -/
def execOrReg (x y : Nibble) (s : State) : Host.Outcome State Fault Refusal :=
  .next (s.setReg x (s.reg x ||| s.reg y)).advance

/-- `AND Vx, Vy` 8xy2 (R75). -/
def execAndReg (x y : Nibble) (s : State) : Host.Outcome State Fault Refusal :=
  .next (s.setReg x (s.reg x &&& s.reg y)).advance

/-- `XOR Vx, Vy` 8xy3 (R81). -/
def execXorReg (x y : Nibble) (s : State) : Host.Outcome State Fault Refusal :=
  .next (s.setReg x (s.reg x ^^^ s.reg y)).advance

/-- `ADD Vx, Vy` 8xy4: VF is the carry (R76). -/
def execAddReg (x y : Nibble) (s : State) : Host.Outcome State Fault Refusal :=
  .next (s.setRegFlag x (s.reg x + s.reg y) (carry (s.reg x) (s.reg y))).advance

/-- `SUB Vx, Vy` 8xy5: VF is the not-borrow of `V[x] - V[y]` (R77). -/
def execSubReg (x y : Nibble) (s : State) : Host.Outcome State Fault Refusal :=
  .next (s.setRegFlag x (s.reg x - s.reg y) (notBorrow (s.reg x) (s.reg y))).advance

/-- `SHR Vx` 8xy6: `V[x]` in place, `y` ignored (R78). -/
def execShr (x _y : Nibble) (s : State) : Host.Outcome State Fault Refusal :=
  .next (s.setRegFlag x (s.reg x >>> 1) (shiftOutRight (s.reg x))).advance

/-- `SUBN Vx, Vy` 8xy7: VF is the not-borrow of `V[y] - V[x]` (R79, 90_conflicts.md C1). -/
def execSubn (x y : Nibble) (s : State) : Host.Outcome State Fault Refusal :=
  .next (s.setRegFlag x (s.reg y - s.reg x) (notBorrow (s.reg y) (s.reg x))).advance

/-- `SHL Vx` 8xyE: `V[x]` in place, `y` ignored (R80). -/
def execShl (x _y : Nibble) (s : State) : Host.Outcome State Fault Refusal :=
  .next (s.setRegFlag x (s.reg x <<< 1) (shiftOutLeft (s.reg x))).advance

/-- `RND Vx, kk` Cxkk: the draw of this Step, a free value, and the mask (R82, R84; notes/assumptions/1.md). -/
def execRnd (x : Nibble) (kk : Byte) (s : State) : Host.Outcome State Fault Refusal :=
  .next (s.setReg x (s.draw &&& kk)).takeDraw.advance

end Sys2Proof.Machine
end

