-- ==== Sys2Proof/Machine/Display.lean ====
section
/-! DEFINITION. The framebuffer instructions (43_display.md): clear-screen and the XOR sprite compositor, which wraps at
both edges. -/

namespace Sys2Proof.Machine

/-- `FB[y][x]` (10_state.md R18). -/
def Framebuffer.pixel (fb : Framebuffer) (y : Fin 32) (x : Fin 64) : Bool := fb[y].getLsbD x.val

/-- `FB[y][x] <- FB[y][x] ^ 1`. -/
def Framebuffer.flip (fb : Framebuffer) (y : Fin 32) (x : Fin 64) : Framebuffer :=
  fb.set y.val (fb[y] ^^^ BitVec.twoPow 64 x.val)

/-- All 2048 pixels 0 (R93). -/
def blankFramebuffer : Framebuffer := Vector.replicate 32 0#64

/-- The pixels (row, column) under the 1 bits of a sprite byte whose leftmost pixel has column `x0`, in row `y`:
sprite column c is bit 7 - c and lands on column (x0 + c) mod 64 (R94, R95). -/
def rowPixels (x0 y : Nat) (b : Byte) : List (Fin 32 × Fin 64) :=
  (List.range 8).filterMap fun c =>
    if b.getLsbD (7 - c) then some (Fin.ofNat 32 y, Fin.ofNat 64 (x0 + c)) else none

/-- The pixels under the 1 bits of a sprite with its top-left corner at column `x0`, row `y0`, in the order of R94's two
loops; row r lands on row (y0 + r) mod 32. -/
def spritePixels (x0 y0 : Nat) : List Byte → List (Fin 32 × Fin 64)
  | [] => []
  | b :: bs => rowPixels x0 y0 b ++ spritePixels x0 (y0 + 1) bs

/-- One pixel of the draw (R94): a pixel that is on is a collision; the pixel is flipped. -/
def compositePixel (acc : Framebuffer × Bool) (p : Fin 32 × Fin 64) : Framebuffer × Bool :=
  (acc.1.flip p.1 p.2, acc.2 || acc.1.pixel p.1 p.2)

/-- The pixels of a draw, one after the other: the framebuffer after it and its collision (R94). -/
def composite (fb : Framebuffer) (ps : List (Fin 32 × Fin 64)) : Framebuffer × Bool :=
  ps.foldl compositePixel (fb, false)

/-- `CLS` 00E0 (R93). -/
def execCls (s : State) : Host.Outcome State Fault Refusal :=
  .next (s.paint blankFramebuffer).advance

/-- `DRW Vx, Vy, n` Dxyn: both coordinates are read before VF is written; `I` is unchanged (R94). -/
def execDrw (x y n : Nibble) (s : State) : Host.Outcome State Fault Refusal :=
  if rangeOk s.i n.toNat then
    let drawn := composite s.fb (spritePixels (originX (s.reg x)) (originY (s.reg y)) (spriteBytes s n))
    .next ((s.paint drawn.1).setFlag drawn.2).advance
  else .next (s.raiseFault .memReadRange s.i)

end Sys2Proof.Machine
end

