-- ==== Sys2Proof/Machine/Flow.lean ====
section
/-! DEFINITION. Control transfer (40_flow.md): return, jump, call, jump-with-offset and the four compare-and-skips.
Targets are not checked when written: an out-of-range pc faults at the next fetch, an odd one executes (R62). -/

namespace Sys2Proof.Machine

/-- `RET` 00EE (R60). -/
def execRet (s : State) : Host.Outcome State Fault Refusal :=
  match s.pop with
  | none => .next (s.raiseFault .stackUnderflow s.spInfo)
  | some (target, s') => .next (s'.goTo target)

/-- `JP nnn` 1nnn (R61). -/
def execJp (nnn : Addr) (s : State) : Host.Outcome State Fault Refusal :=
  .next (s.goTo (addrWord nnn))

/-- `CALL nnn` 2nnn: the return address `pc + 2` is pushed (R63). -/
def execCall (nnn : Addr) (s : State) : Host.Outcome State Fault Refusal :=
  match s.push (s.pc + 2#16) with
  | none => .next (s.raiseFault .stackOverflow s.spInfo)
  | some s' => .next (s'.goTo (addrWord nnn))

/-- `JP V0, nnn` Bnnn: always `V[0]`, the sum modulo 2^16 and not masked to 12 bits (R64). -/
def execJpV0 (nnn : Addr) (s : State) : Host.Outcome State Fault Refusal :=
  .next (s.goTo (addrWord nnn + byteWord (s.reg 0#4)))

/-- `SE Vx, kk` 3xkk (R65). -/
def execSeImm (x : Nibble) (kk : Byte) (s : State) : Host.Outcome State Fault Refusal :=
  .next (s.skipIf (s.reg x == kk))

/-- `SNE Vx, kk` 4xkk (R66). -/
def execSneImm (x : Nibble) (kk : Byte) (s : State) : Host.Outcome State Fault Refusal :=
  .next (s.skipIf (s.reg x != kk))

/-- `SE Vx, Vy` 5xy0 (R67). -/
def execSeReg (x y : Nibble) (s : State) : Host.Outcome State Fault Refusal :=
  .next (s.skipIf (s.reg x == s.reg y))

/-- `SNE Vx, Vy` 9xy0 (R68). -/
def execSneReg (x y : Nibble) (s : State) : Host.Outcome State Fault Refusal :=
  .next (s.skipIf (s.reg x != s.reg y))

end Sys2Proof.Machine
end

