-- ==== Sys2Proof/Machine/IndexMemory.lean ====
section
/-! DEFINITION. The address register and the memory transfers (42_index_memory.md). The whole byte range of a transfer
is checked before anything changes (20_memory.md R38). -/

namespace Sys2Proof.Machine

/-- `LD I, nnn` Annn (R85). -/
def execLdI (nnn : Addr) (s : State) : Host.Outcome State Fault Refusal :=
  .next (s.setI (addrWord nnn)).advance

/-- `ADD I, Vx` Fx1E: modulo 2^16, no flag (R86). -/
def execAddI (x : Nibble) (s : State) : Host.Outcome State Fault Refusal :=
  .next (s.setI (s.i + byteWord (s.reg x))).advance

/-- `LD F, Vx` Fx29 (R87). -/
def execLdF (x : Nibble) (s : State) : Host.Outcome State Fault Refusal :=
  match hexIndex (s.reg x) with
  | none => .next (s.raiseFault .glyphIndexRange (byteWord (s.reg x)))
  | some d => .next (s.setI (glyphAddr d)).advance

/-- `LD B, Vx` Fx33: `I` is unchanged (R89). -/
def execLdB (x : Nibble) (s : State) : Host.Outcome State Fault Refusal :=
  if rangeOk s.i 3 then
    .next (s.setMem (Memory.writeBytes s.mem s.i.toNat (bcdDigits (s.reg x)))).advance
  else .next (s.raiseFault .memWriteRange s.i)

/-- `LD [I], Vx` Fx55: `I` is advanced by the count written (R90). -/
def execDump (x : Nibble) (s : State) : Host.Outcome State Fault Refusal :=
  if rangeOk s.i (runLength x) then
    .next ((s.setMem (Memory.writeBytes s.mem s.i.toNat (regRun s x))).setI
      (s.i + BitVec.ofNat 16 (runLength x))).advance
  else .next (s.raiseFault .memWriteRange s.i)

/-- `LD Vx, [I]` Fx65: `I` is advanced by the count read (R91). -/
def execLoad (x : Nibble) (s : State) : Host.Outcome State Fault Refusal :=
  if rangeOk s.i (runLength x) then
    .next ((s.setRegs (loadedRegs s x)).setI (s.i + BitVec.ofNat 16 (runLength x))).advance
  else .next (s.raiseFault .memReadRange s.i)

end Sys2Proof.Machine
end

