-- ==== Sys2Proof/Machine/KeysTimers.lean ====
section
/-! DEFINITION. The key and timer instructions (44_keys_timers.md). The key instructions test the level of the latch at
the moment of the Step and never change it (R106). -/

namespace Sys2Proof.Machine

/-- `SKP Vx` Ex9E (R100). -/
def execSkp (x : Nibble) (s : State) : Host.Outcome State Fault Refusal :=
  match hexIndex (s.reg x) with
  | none => .next (s.raiseFault .keyIndexRange (byteWord (s.reg x)))
  | some k => .next (s.skipIf (s.keyDown k))

/-- `SKNP Vx` ExA1 (R101). -/
def execSknp (x : Nibble) (s : State) : Host.Outcome State Fault Refusal :=
  match hexIndex (s.reg x) with
  | none => .next (s.raiseFault .keyIndexRange (byteWord (s.reg x)))
  | some k => .next (s.skipIf (!s.keyDown k))

/-- `LD Vx, K` Fx0A: blocks while no key is pressed (R102). -/
def execLdVxK (x : Nibble) (s : State) : Host.Outcome State Fault Refusal :=
  match lowestKey s with
  | none => .next s.block
  | some k => .next (s.setReg x (BitVec.ofNat 8 k)).advance

/-- `LD Vx, DT` Fx07 (R103). -/
def execLdVxDt (x : Nibble) (s : State) : Host.Outcome State Fault Refusal :=
  .next (s.setReg x s.dt).advance

/-- `LD DT, Vx` Fx15 (R104). -/
def execLdDtVx (x : Nibble) (s : State) : Host.Outcome State Fault Refusal :=
  .next (s.setDt (s.reg x)).advance

/-- `LD ST, Vx` Fx18 (R105). -/
def execLdStVx (x : Nibble) (s : State) : Host.Outcome State Fault Refusal :=
  .next (s.setSt (s.reg x)).advance

end Sys2Proof.Machine
end

