-- ==== Sys2Proof/Machine/Unknown.lean ====
section
/-! DEFINITION. The RCA call and the unknown encodings (45_unknown.md): counted no-ops. -/

namespace Sys2Proof.Machine

/-- The counted no-op (R108, R109): `unk_count <- unk_count + 1`, `pc <- pc + 2`. -/
def countedNop (s : State) : State := s.countUnknown.advance

/-- `SYS nnn` 0nnn: nothing is called, nnn is ignored (R108). -/
def execSys (_nnn : Addr) (s : State) : Host.Outcome State Fault Refusal := .next (countedNop s)

/-- A word of no row of the table (R109): the Step executes it, the decoder having rejected it by name. -/
def execUnknown (_w : Word) (s : State) : Host.Outcome State Fault Refusal := .next (countedNop s)

end Sys2Proof.Machine
end

