-- ==== Sys2Proof/Machine/Fetch.lean ====
section
/-! DEFINITION. The parts of `Step` (30_encoding.md R52) around the instruction: the test for HALTED, the fetch with its
range check, and running the fetched word. Sys2Proof/Machine/Step.lean only puts them together. -/

namespace Sys2Proof.Machine

/-- The one thing a Step reads `status` for (10_state.md R20). -/
def engineHalted (s : State) : Bool := s.status == .halted

/-- A Step in HALTED changes nothing (R52, 60_exceptions.md R115; DESIGN CHOICE, safe: notes/assumptions/3.md). -/
def haltedStep (s : State) : State := s

/-- The fetch: the two bytes at pc and pc + 1, high byte first, whatever the parity of pc; none above 0xFFE
(20_memory.md R32, R34, R37). -/
def fetch (s : State) : Option Word :=
  if s.pc.toNat ≤ 0xFFE then
    some (wordOfBytes (Memory.read s.mem s.pc.toNat) (Memory.read s.mem (s.pc.toNat + 1)))
  else none

/-- `raise Fault(FetchRange, pc)`, before decode (20_memory.md R37). -/
def fetchFault (s : State) : State := s.raiseFault .fetchRange s.pc

/-- Decode the word and execute it: an instruction by its meaning, any other word as the counted no-op (R50, R52). -/
def runWord (w : Word) (s : State) : Host.Outcome State Fault Refusal :=
  match decodeWord w with
  | .ok i => exec i s
  | .error _ => execUnknown w s

/-- The state with these bytes where the next fetch reads them; unchanged where no fetch is possible. -/
def placeAtPc (s : State) (bytes : List Byte) : State :=
  if s.pc.toNat ≤ 0xFFE then s.setMem (Memory.writeBytes s.mem s.pc.toNat bytes) else s

end Sys2Proof.Machine
end

