-- ==== Sys2Proof/Machine/Step.lean ====
section
/-! DEFINITION. `Step` (30_encoding.md R52): the engine's only step. It neither counts timers down nor samples keys
(R53). -/

namespace Sys2Proof.Machine

/-- `Step(rnd)` of R52, the draw being `State.draw`. It answers a next state always: a fault of the spec is its fault
entry. The value it reports to the host is `stepReport` (Sys2Proof/Machine/Report.lean). -/
def step (s : State) : Host.Outcome State Fault Refusal :=
  if engineHalted s then .next (haltedStep s)
  else
    match fetch s with
    | none => .next (fetchFault s)
    | some w => runWord w s

/-- `s` with the instruction that the opcode table numbers `w` over `nbits` bits stored at pc, where the next Step
fetches (big-endian, 20_memory.md R32). It stands for the load of a program that begins with it (DESIGN CHOICE, safe: notes/assumptions/4.md). -/
def State.withFetchWord (s : State) (nbits w : Nat) : State := placeAtPc s (tableBytes nbits w)

end Sys2Proof.Machine
end

