-- ==== Sys2Proof/Machine/Report.lean ====
section
/-! DEFINITION. The value a Step returns to the host (30_encoding.md R52): a function of the state before it, and no
state itself (DESIGN CHOICE, safe: notes/assumptions/8.md). -/

namespace Sys2Proof.Machine

/-- The four values a Step returns (R52). -/
inductive Report where
  | completed
  | unknownNop (w : Word)
  | blocked
  | halted (cause : FaultCause)
  deriving DecidableEq, Repr

/-- Whether a word is an unknown encoding of R51: SYS, or no row's. -/
def isUnknownWord (w : Word) : Bool :=
  match decodeWord w with
  | .ok (.sys _) => true
  | .ok _ => false
  | .error _ => true

/-- The report of a Step that ran the word `w` and left the state `t`. -/
def reportOf (w : Word) (t : State) : Report :=
  match t.status with
  | .halted => .halted t.faultCause
  | .blockedOnKey => .blocked
  | .running => if isUnknownWord w then .unknownNop w else .completed

/-- What the Step from `s` returns; none if it answered no next state, which no Step does. -/
def stepReport (s : State) : Option Report :=
  if engineHalted s then some (.halted s.faultCause)
  else
    match fetch s, step s with
    | none, _ => some (.halted .fetchRange)
    | some w, .next t => some (reportOf w t)
    | some _, _ => none

end Sys2Proof.Machine
end

