-- ==== Sys2Proof/Machine/HostOps.lean ====
section
/-! DEFINITION. The steps of the other two agents and the host's views (00_scope.md R6, 60_exceptions.md R120 to R126,
70_reset_and_hazards.md R131), and every schedule of the agents' steps as a list of moves (R121). -/

namespace Sys2Proof.Machine

/-- `Tick()` (60_exceptions.md R120): each timer counts down on its own and stops at 0, in every status. -/
def tick (s : State) : State :=
  { s with
    dt := if 0 < s.dt.toNat then s.dt - 1#8 else s.dt
    st := if 0 < s.st.toNat then s.st - 1#8 else s.st }

/-- `SetKeys(k)` (60_exceptions.md R123): all sixteen latches at once. -/
def setKeys (k : BitVec 16) (s : State) : State := { s with key := k }

/-- `AckDirty()` (60_exceptions.md R124). -/
def ackDirty (s : State) : State := { s with dirty := false }

/-- Memory after `Reset`: zero, then the font at 0, then the program at 0x200 (70_reset_and_hazards.md R131). Nothing is
listed where this agrees with the default font and zero. -/
def resetMemory (font : Vector Byte 80) (program : List Byte) : Memory :=
  Memory.writeBytes (Memory.writeBytes [] 0 font.toList) Config.progBase program

/-- The state after `Reset(program)` with the font parameter FONT (R131). `draws` is the model's own and is kept, so that
the draws after a Reset are as free as those before it (notes/assumptions/1.md). -/
def State.resetWith (font : Vector Byte 80) (program : List Byte) (draws : Nat) : State :=
  { State.reset with mem := resetMemory font program, draws := draws }

/-- `Reset(program)` (R131): refused, with no state change, when the program is over 3584 bytes. -/
def hostReset (font : Vector Byte 80) (program : List Byte) (s : State) : Host.Outcome State Fault Refusal :=
  if program.length ≤ Config.progMaxLen then .next (State.resetWith font program s.draws)
  else .refused (.programTooLong program.length)

/-- The moves of the three agents that can change state (60_exceptions.md section 6). -/
inductive Move where
  | reset (program : List Byte)
  | setKeys (k : BitVec 16)
  | step
  | tick
  | ackDirty
  deriving DecidableEq, Repr

/-- One move and its outcome, for a machine with the font parameter `font`. -/
def perform (font : Vector Byte 80) (m : Move) (s : State) : Host.Outcome State Fault Refusal :=
  match m with
  | .reset program => hostReset font program s
  | .setKeys k => .next (Sys2Proof.Machine.setKeys k s)
  | .step => Sys2Proof.Machine.step s
  | .tick => .next (Sys2Proof.Machine.tick s)
  | .ackDirty => .next (Sys2Proof.Machine.ackDirty s)

/-- The state after a move: a refused move changes nothing (R43, R131). -/
def stateAfter (font : Vector Byte 80) (m : Move) (s : State) : State :=
  match perform font m s with
  | .next t => t
  | .fault _ => s
  | .refused _ => s

/-- The state after a schedule: any moves in any order and ratio (60_exceptions.md R121). DESIGN CHOICE, safe:
notes/assumptions/5.md. -/
def performAll (font : Vector Byte 80) (ms : List Move) (s : State) : State :=
  ms.foldl (fun t m => stateAfter font m t) s

/-! ### The host's views (60_exceptions.md R125, R126): they change no state -/

/-- `ReadFramebuffer()`: the 2048 pixels, row by row, left to right (R125). -/
def readFramebuffer (s : State) : List (List Bool) :=
  (List.finRange 32).map fun y => (List.finRange 64).map fun x => Framebuffer.pixel s.fb y x

/-- `ReadDirty()` (R125). -/
def readDirty (s : State) : Bool := s.dirty

/-- What `ReadState()` returns (R126). -/
structure RegisterView where
  v : Vector Byte 16
  i : Word
  pc : Word
  stack : Vector Word 16
  sp : Fin 17
  dt : Byte
  st : Byte
  key : BitVec 16
  status : BitVec 2
  faultCause : BitVec 3
  faultPc : Word
  faultInfo : Word
  unkCount : Nat
  deriving DecidableEq, Repr

/-- `ReadState()` (R126). -/
def readState (s : State) : RegisterView where
  v := s.v
  i := s.i
  pc := s.pc
  stack := s.stack
  sp := s.sp
  dt := s.dt
  st := s.st
  key := s.key
  status := s.status.code
  faultCause := s.faultCause.code
  faultPc := s.faultPc
  faultInfo := s.faultInfo
  unkCount := s.unkCount

/-- `ReadMem(a)`: the byte, for 0 ≤ a ≤ 0xFFF (R126). No other address exists (20_memory.md R30): a fault
by name, DESIGN CHOICE, safe: notes/assumptions/9.md. -/
def readMem (a : Nat) (s : State) : Host.Outcome Byte Fault Refusal :=
  if a ≤ 0xFFF then .next (Memory.read s.mem a) else .fault (.noSuchAddress a)

end Sys2Proof.Machine
end

