-- ==== Sys2Proof/Safety.lean ====
section
/-! DEFINITION. The words in which claims are stated: what a step leaves unchanged (00_scope.md R9), fault entry
(60_exceptions.md R113), what a sprite covers (43_display.md R94), the endings of a run (70_reset_and_hazards.md R138)
and the invariants of the machine. -/

namespace Sys2Proof.Machine

/-- The pieces of state (10_state.md section 1), and the model's own `draws`. -/
inductive Part where
  | regs | index | pc | stack | sp | dt | st | key | fb | dirty | status
  | faultCause | faultPc | faultInfo | unkCount | mem | draws
  deriving DecidableEq, Repr

/-- `t` holds in this piece what `s` holds; for Memory, every byte reads the same. -/
def Part.same : Part → State → State → Prop
  | .regs, s, t => ∀ r, t.reg r = s.reg r
  | .index, s, t => t.i = s.i
  | .pc, s, t => t.pc = s.pc
  | .stack, s, t => t.stack = s.stack
  | .sp, s, t => t.sp = s.sp
  | .dt, s, t => t.dt = s.dt
  | .st, s, t => t.st = s.st
  | .key, s, t => t.key = s.key
  | .fb, s, t => t.fb = s.fb
  | .dirty, s, t => t.dirty = s.dirty
  | .status, s, t => t.status = s.status
  | .faultCause, s, t => t.faultCause = s.faultCause
  | .faultPc, s, t => t.faultPc = s.faultPc
  | .faultInfo, s, t => t.faultInfo = s.faultInfo
  | .unkCount, s, t => t.unkCount = s.unkCount
  | .mem, s, t => ∀ a, Memory.read t.mem a = Memory.read s.mem a
  | .draws, s, t => t.draws = s.draws

/-- The frame rule R9: from `s` to `t` nothing changes but, at most, the pieces listed. -/
def UnchangedExcept (parts : List Part) (s t : State) : Prop := ∀ p, p ∉ parts → p.same s t

/-- Every register but those listed holds in `t` what it holds in `s`. -/
def RegsUnchangedExcept (xs : List Nibble) (s t : State) : Prop := ∀ r, r ∉ xs → t.reg r = s.reg r

/-- `t` is `s` after fault entry (60_exceptions.md R113): the record and the status are written, nothing else. -/
def FaultEntered (cause : FaultCause) (info : Word) (s t : State) : Prop :=
  t.faultCause = cause ∧ t.faultPc = s.pc ∧ t.faultInfo = info ∧ t.status = .halted ∧
    UnchangedExcept [.faultCause, .faultPc, .faultInfo, .status] s t

/-- The instruction at pc, where pc can be fetched from. -/
def InstrAtPc (s : State) (i : Instr) : Prop := ∃ w, fetch s = some w ∧ decodeWord w = .ok i

/-- A 1 bit of the sprite that `DRW Vx, Vy, n` draws in `s` lies over the pixel in row `py`, column `px`
(43_display.md R94, R95): row r of the sprite is the byte at `I + r`, its column c is bit 7 - c of it, and both
coordinates wrap. -/
def SpriteCovers (s : State) (x y n : Nibble) (py : Fin 32) (px : Fin 64) : Prop :=
  ∃ r, r < n.toNat ∧ ∃ c, c < 8 ∧ (Memory.read s.mem (s.i.toNat + r)).getLsbD (7 - c) = true ∧
    py.val = ((s.reg y).toNat + r) % 32 ∧ px.val = ((s.reg x).toNat + c) % 64

/-- Every register, flag, slot, pixel and counter has its reset value (10_state.md R26, 70_reset_and_hazards.md R131);
Memory is apart. -/
def ResetValuesHold (t : State) : Prop :=
  (∀ r, t.reg r = 0#8) ∧ t.i = 0#16 ∧ t.pc = 0x200#16 ∧ (∀ k : Fin 16, t.stack[k] = 0#16) ∧ t.sp = 0 ∧
  t.dt = 0#8 ∧ t.st = 0#8 ∧ (∀ k, k < 16 → t.keyDown k = false) ∧
  (∀ y x, Framebuffer.pixel t.fb y x = false) ∧ t.dirty = false ∧ t.status = .running ∧ t.faultCause = .noFault ∧
  t.faultPc = 0#16 ∧ t.faultInfo = 0#16 ∧ t.unkCount = 0

/-! ### The endings of a run (70_reset_and_hazards.md R138) -/

/-- The program has settled at address `a`: a jump to itself, from which a Step changes nothing. -/
def SettledAt (s : State) (a : Addr) : Prop :=
  s.pc = addrWord a ∧ s.status = .running ∧ InstrAtPc s (.jp a)

/-- The program has faulted: not a finished run (60_exceptions.md R115). -/
def Faulted (s : State) : Prop := s.status = .halted

/-- The program is waiting for a key. -/
def Waiting (s : State) : Prop := s.status = .blockedOnKey

/-- The premise that R115 asks of a claim of normal completion. -/
def NoFaultRecorded (s : State) : Prop := s.faultCause = .noFault

/-! ### Invariants -/

/-- Memory is in canonical form. -/
def MemCanonical (s : State) : Prop := Memory.wf s.mem

/-- The fault registers and HALTED go together: no fault is recorded outside HALTED and one is in it, at the pc where the
engine stands (10_state.md R21, 60_exceptions.md R113, R115). -/
def FaultRecorded (s : State) : Prop :=
  (s.status = .halted → s.faultCause ≠ .noFault ∧ s.faultPc = s.pc) ∧
  (s.status ≠ .halted → s.faultCause = .noFault ∧ s.faultPc = 0#16 ∧ s.faultInfo = 0#16)

/-- The recorded fault is explained by the state that it left: the instruction at pc raises it and its condition and
information are those of the table in 60_exceptions.md R112. -/
def FaultExplained (s : State) : Prop :=
  match s.faultCause with
  | .noFault => True
  | .stackOverflow => s.sp.val = 16 ∧ s.faultInfo = 16#16 ∧ ∃ nnn, InstrAtPc s (.call nnn)
  | .stackUnderflow => s.sp.val = 0 ∧ s.faultInfo = 0#16 ∧ InstrAtPc s .ret
  | .fetchRange => 0xFFE < s.pc.toNat ∧ s.faultInfo = s.pc
  | .memReadRange => s.faultInfo = s.i ∧
      ((∃ x y n, InstrAtPc s (.drw x y n) ∧ 0 < n.toNat ∧ 0xFFF < s.i.toNat + n.toNat - 1) ∨
        ∃ x, InstrAtPc s (.load x) ∧ 0xFFF < s.i.toNat + x.toNat)
  | .memWriteRange => s.faultInfo = s.i ∧
      ((∃ x, InstrAtPc s (.ldB x) ∧ 0xFFF < s.i.toNat + 2) ∨
        ∃ x, InstrAtPc s (.dump x) ∧ 0xFFF < s.i.toNat + x.toNat)
  | .keyIndexRange => ∃ x, (InstrAtPc s (.skp x) ∨ InstrAtPc s (.sknp x)) ∧
      0x0F < (s.reg x).toNat ∧ s.faultInfo.toNat = (s.reg x).toNat
  | .glyphIndexRange => ∃ x, InstrAtPc s (.ldF x) ∧
      0x0F < (s.reg x).toNat ∧ s.faultInfo.toNat = (s.reg x).toNat

/-- In BLOCKED_ON_KEY the instruction at pc is wait-for-key (10_state.md R20). -/
def BlockedAtWait (s : State) : Prop := s.status = .blockedOnKey → ∃ x, InstrAtPc s (.ldVxK x)

/-- pc never passes 0x10FE, the largest value an instruction writes, and no return address passes 0x1000
(10_state.md R13). -/
def PcBounded (s : State) : Prop :=
  s.pc.toNat ≤ 0x10FE ∧ ∀ k : Fin 16, (s.stack[k]).toNat ≤ 0x1000

/-- The invariant of the machine. -/
def Inv (s : State) : Prop :=
  MemCanonical s ∧ FaultRecorded s ∧ FaultExplained s ∧ BlockedAtWait s ∧ PcBounded s

end Sys2Proof.Machine
end

