-- ==== Sys2Proof/Certificates/Slice0/Obligations.lean ====
section
/-! DEFINITION. The statements for the provers. Each docstring names the rules of spec/ it formalises. In the statements
about instructions `decodeWord (word… ) = .ok …` says which words are the instruction's (30_encoding.md R47, R49). -/

open Sys2Proof Sys2Proof.Machine

/-! ### Encoding -/

/-- Words printed in the spec: 95_test_vectors.md T-DEC-2 to T-DEC-6, E9, and the opcode map R49. -/
def Obligations.KnownWordsDecode : Prop :=
  [0x6005, 0x7003, 0x00E0, 0x00EE, 0x00E1, 0xD12F, 0x8AB6, 0xF00A, 0xFF0A, 0x1ABC, 0xB300, 0xF155, 0xE29E].map
      (fun w => decodeTableWord 16 w) =
    [some (.ldImm 0 0x05), some (.addImm 0 0x03), some .cls, some .ret, some (.sys 0x0E1), some (.drw 1 2 15),
      some (.shr 0xA 0xB), some (.ldVxK 0), some (.ldVxK 0xF), some (.jp 0xABC), some (.jpV0 0x300),
      some (.dump 1), some (.skp 2)] ∧
  [0x5121, 0x9121, 0x8128, 0xE19F, 0xF130].map (fun w => decodeTableWord 16 w) = [none, none, none, none, none]

/-- R49, R50: no bit of an encoding is dropped, for every well-formed instruction and every operand. -/
def Obligations.DecodeOfEncode : Prop :=
  ∀ i : Instr, i.WellFormed = true → decodeWord (encode i) = .ok i

/-- R49, R50: a word that decodes is the encoding of what it decodes to, so each instruction has one word. -/
def Obligations.EncodeOfDecode : Prop :=
  ∀ (w : Word) (i : Instr), decodeWord w = .ok i → i.WellFormed = true ∧ encode i = w

/-- R51, the list of unknown encodings: a word is unknown exactly in the listed families and sub-opcodes. -/
def Obligations.UnknownWordsAreTheListed : Prop :=
  ∀ w : Word, isUnknownWord w = true ↔
    (w.toNat < 0x1000 ∧ w.toNat ≠ 0x0E0 ∧ w.toNat ≠ 0x0EE) ∨
    (w.toNat / 0x1000 = 5 ∧ w.toNat % 16 ≠ 0) ∨
    (w.toNat / 0x1000 = 8 ∧ w.toNat % 16 ∈ [8, 9, 0xA, 0xB, 0xC, 0xD, 0xF]) ∨
    (w.toNat / 0x1000 = 9 ∧ w.toNat % 16 ≠ 0) ∨
    (w.toNat / 0x1000 = 0xE ∧ w.toNat % 256 ∉ [0x9E, 0xA1]) ∨
    (w.toNat / 0x1000 = 0xF ∧
      w.toNat % 256 ∉ [0x07, 0x0A, 0x15, 0x18, 0x1E, 0x29, 0x33, 0x55, 0x65])

/-! ### The Step -/

/-- R52: outside HALTED, with pc in the fetch range, the Step executes the instruction that the two bytes at pc decode
to, high byte first (R32), and adds nothing around it. -/
def Obligations.StepRunsTheDecodedInstruction : Prop :=
  ∀ (s : State) (i : Instr), s.status ≠ .halted → s.pc.toNat ≤ 0xFFE →
    decodeWord (wordOfBytes (Memory.read s.mem s.pc.toNat) (Memory.read s.mem (s.pc.toNat + 1))) = .ok i →
    step s = exec i s

/-- R109: a word of the five families listed there is no instruction's, and a Step that fetches it is a counted no-op and
reports it. -/
def Obligations.UnknownWordIsCountedNop : Prop :=
  ∀ (s : State) (w : Word), s.status ≠ .halted → fetch s = some w →
    ((w.toNat / 0x1000 = 5 ∧ w.toNat % 16 ≠ 0) ∨
      (w.toNat / 0x1000 = 9 ∧ w.toNat % 16 ≠ 0) ∨
      (w.toNat / 0x1000 = 8 ∧ w.toNat % 16 ∈ [8, 9, 0xA, 0xB, 0xC, 0xD, 0xF]) ∨
      (w.toNat / 0x1000 = 0xE ∧ w.toNat % 256 ∉ [0x9E, 0xA1]) ∨
      (w.toNat / 0x1000 = 0xF ∧
        w.toNat % 256 ∉ [0x07, 0x0A, 0x15, 0x18, 0x1E, 0x29, 0x33, 0x55, 0x65])) →
    decodeWord w = .error (.unknown w) ∧ stepReport s = some (.unknownNop w) ∧
    ∃ t, step s = .next t ∧ t.unkCount = s.unkCount + 1 ∧ t.pc = s.pc + 2#16 ∧ t.status = .running ∧
      UnchangedExcept [.unkCount, .pc, .status] s t

/-- R37: no fetch above 0xFFE; the Step raises FetchRange with the pc as its information and reports it. -/
def Obligations.FetchOutOfRangeFaults : Prop :=
  ∀ s : State, s.status ≠ .halted → 0xFFE < s.pc.toNat →
    fetch s = none ∧ stepReport s = some (.halted .fetchRange) ∧
      ∃ t, step s = .next t ∧ FaultEntered .fetchRange s.pc s t

/-- R52: the Step is total; nothing a program does makes it answer anything but a next state. -/
def Obligations.StepAlwaysAnswersNext : Prop :=
  ∀ s : State, ∃ t, step s = .next t

/-- R113: a Step that halts has written the fault record and the status and nothing else; `fault_pc` is its pc, the
cause is one of the seven, and the Step reports it. -/
def Obligations.FaultingStepHasNoOtherEffect : Prop :=
  ∀ s t : State, s.status ≠ .halted → step s = .next t → t.status = .halted →
    t.faultCause ≠ .noFault ∧ FaultEntered t.faultCause t.faultInfo s t ∧
      stepReport s = some (.halted t.faultCause)

/-- R115: only Reset leaves HALTED. Under any schedule without a Reset the engine stays there, and what changes is at
most what Tick, SetKeys and AckDirty write. -/
def Obligations.OnlyResetLeavesHalted : Prop :=
  ∀ (font : Vector Byte 80) (ms : List Move) (s : State), s.status = .halted →
    (∀ p, Move.reset p ∉ ms) → UnchangedExcept [.dt, .st, .key, .dirty] s (performAll font ms s)

/-- R52: the report of a Step outside HALTED names how it ended: completed or an unknown no-op, blocked, or halted with
its cause. -/
def Obligations.ReportNamesTheEnding : Prop :=
  ∀ s t : State, s.status ≠ .halted → step s = .next t →
    (t.status = .halted → stepReport s = some (.halted t.faultCause)) ∧
    (t.status = .blockedOnKey → stepReport s = some .blocked) ∧
    (t.status = .running → ∃ w, fetch s = some w ∧
      stepReport s = some (if isUnknownWord w then .unknownNop w else .completed))

/-- 20_memory.md R32, R40: the word stored at pc is the word fetched, so the next Step runs it. -/
def Obligations.StoredWordIsExecuted : Prop :=
  ∀ (s : State) (w : Nat) (i : Instr), s.status ≠ .halted → s.pc.toNat ≤ 0xFFE → w < 65536 →
    decodeTableWord 16 w = some i → step (s.withFetchWord 16 w) = exec i (s.withFetchWord 16 w)

/-! ### Reset -/

/-- R26, R35, R36 at `State.reset`, the state after Reset with the empty program and the default font: every register's
value, the default font table byte by byte, and zero in every other byte. -/
def Obligations.ResetStateIsTheSpecs : Prop :=
  ResetValuesHold State.reset ∧
  Memory.readBytes State.reset.mem 0 40 =
    [0xF0, 0x90, 0x90, 0x90, 0xF0, 0x20, 0x60, 0x20, 0x20, 0x70, 0xF0, 0x10, 0xF0, 0x80, 0xF0,
      0xF0, 0x10, 0xF0, 0x10, 0xF0, 0x90, 0x90, 0xF0, 0x10, 0x10, 0xF0, 0x80, 0xF0, 0x10, 0xF0,
      0xF0, 0x80, 0xF0, 0x90, 0xF0, 0xF0, 0x10, 0x20, 0x40, 0x40] ∧
  Memory.readBytes State.reset.mem 40 40 =
    [0xF0, 0x90, 0xF0, 0x90, 0xF0, 0xF0, 0x90, 0xF0, 0x10, 0xF0, 0xF0, 0x90, 0xF0, 0x90, 0x90,
      0xE0, 0x90, 0xE0, 0x90, 0xE0, 0xF0, 0x80, 0x80, 0x80, 0xF0, 0xE0, 0x90, 0x90, 0x90, 0xE0,
      0xF0, 0x80, 0xF0, 0x80, 0xF0, 0xF0, 0x80, 0xF0, 0x80, 0x80] ∧
  ∀ a, 80 ≤ a → a ≤ 0xFFF → Memory.read State.reset.mem a = 0#8

/-- R131: a program of at most 3584 bytes is loaded at 0x200, the font lies at 0, every other byte is zero, and every
other piece of state has its reset value; a longer program is refused and no state changes. For every value of the font
parameter. -/
def Obligations.ResetLoadsTheProgram : Prop :=
  ∀ (font : Vector Byte 80) (program : List Byte) (s : State),
    (program.length ≤ 3584 → ∃ t, hostReset font program s = .next t ∧ ResetValuesHold t ∧
      (∀ a (h : a < 80), Memory.read t.mem a = font[a]) ∧
      (∀ a, 80 ≤ a → a < 0x200 → Memory.read t.mem a = 0#8) ∧
      (∀ k (h : k < program.length), Memory.read t.mem (0x200 + k) = program[k]) ∧
      (∀ a, 0x200 + program.length ≤ a → a ≤ 0xFFF → Memory.read t.mem a = 0#8)) ∧
    (3584 < program.length → hostReset font program s = .refused (.programTooLong program.length) ∧
      stateAfter font (.reset program) s = s)

/-! ### Control transfer (40_flow.md) -/

/-- R61. -/
def Obligations.JumpSetsPc : Prop :=
  ∀ (nnn : Addr) (s : State), decodeWord (wordA 0x1 nnn) = .ok (.jp nnn) ∧
    ∃ t, exec (.jp nnn) s = .next t ∧ t.pc.toNat = nnn.toNat ∧ t.status = .running ∧
      UnchangedExcept [.pc, .status] s t

/-- R64: the sum is not masked; it is at most 0x10FE. -/
def Obligations.JumpWithOffsetAddsV0 : Prop :=
  ∀ (nnn : Addr) (s : State), decodeWord (wordA 0xB nnn) = .ok (.jpV0 nnn) ∧
    ∃ t, exec (.jpV0 nnn) s = .next t ∧ t.pc.toNat = nnn.toNat + (s.reg 0).toNat ∧ t.status = .running ∧
      UnchangedExcept [.pc, .status] s t

/-- R63: below sixteen held addresses the call pushes the address after it and jumps; with sixteen it raises
StackOverflow. -/
def Obligations.CallPushesReturnAddress : Prop :=
  ∀ (nnn : Addr) (s : State), decodeWord (wordA 0x2 nnn) = .ok (.call nnn) ∧
    (s.sp.val < 16 → ∃ t, exec (.call nnn) s = .next t ∧
      (∀ k : Fin 16, t.stack[k] = if k.val = s.sp.val then s.pc + 2#16 else s.stack[k]) ∧
      t.sp.val = s.sp.val + 1 ∧ t.pc.toNat = nnn.toNat ∧ t.status = .running ∧
      UnchangedExcept [.stack, .sp, .pc, .status] s t) ∧
    (s.sp.val = 16 → ∃ t, exec (.call nnn) s = .next t ∧ FaultEntered .stackOverflow 16 s t)

/-- R60: with an address held the return pops it into pc; with none it raises StackUnderflow. -/
def Obligations.ReturnPopsReturnAddress : Prop :=
  ∀ s : State, decodeWord 0x00EE = .ok .ret ∧
    (∀ k : Fin 16, s.sp.val = k.val + 1 → ∃ t, exec .ret s = .next t ∧ t.sp.val = k.val ∧ t.pc = s.stack[k] ∧
      t.status = .running ∧ UnchangedExcept [.sp, .pc, .status] s t) ∧
    (s.sp.val = 0 → ∃ t, exec .ret s = .next t ∧ FaultEntered .stackUnderflow 0 s t)

/-- The property E7 of the source (R63, R60): whatever a subroutine does, if the stack and SP are at its return what
they were at its entry, the return lands on the instruction after the call, with SP as before the call. -/
def Obligations.ReturnLandsAfterTheCall : Prop :=
  ∀ (nnn : Addr) (s : State), s.sp.val < 16 →
    ∃ t, exec (.call nnn) s = .next t ∧
      ∀ u : State, u.stack = t.stack → u.sp = t.sp →
        ∃ w, exec .ret u = .next w ∧ w.pc = s.pc + 2#16 ∧ w.sp = s.sp

/-- R65, R66: the two skips on an immediate. -/
def Obligations.SkipsOnImmediate : Prop :=
  ∀ (x : Nibble) (kk : Byte) (s : State),
    decodeWord (wordXK 0x3 x kk) = .ok (.seImm x kk) ∧ decodeWord (wordXK 0x4 x kk) = .ok (.sneImm x kk) ∧
    (∃ t, exec (.seImm x kk) s = .next t ∧ t.pc = (if s.reg x = kk then s.pc + 4#16 else s.pc + 2#16) ∧
      t.status = .running ∧ UnchangedExcept [.pc, .status] s t) ∧
    (∃ t, exec (.sneImm x kk) s = .next t ∧ t.pc = (if s.reg x ≠ kk then s.pc + 4#16 else s.pc + 2#16) ∧
      t.status = .running ∧ UnchangedExcept [.pc, .status] s t)

/-- R67, R68: the two skips on registers. -/
def Obligations.SkipsOnRegisters : Prop :=
  ∀ (x y : Nibble) (s : State),
    decodeWord (wordXYN 0x5 x y 0) = .ok (.seReg x y) ∧ decodeWord (wordXYN 0x9 x y 0) = .ok (.sneReg x y) ∧
    (∃ t, exec (.seReg x y) s = .next t ∧ t.pc = (if s.reg x = s.reg y then s.pc + 4#16 else s.pc + 2#16) ∧
      t.status = .running ∧ UnchangedExcept [.pc, .status] s t) ∧
    (∃ t, exec (.sneReg x y) s = .next t ∧ t.pc = (if s.reg x ≠ s.reg y then s.pc + 4#16 else s.pc + 2#16) ∧
      t.status = .running ∧ UnchangedExcept [.pc, .status] s t)

/-! ### Arithmetic, logic, random (41_alu.md) -/

/-- R71, R73: load-immediate and copy. -/
def Obligations.LoadsSetTheRegister : Prop :=
  ∀ (x y : Nibble) (kk : Byte) (s : State),
    decodeWord (wordXK 0x6 x kk) = .ok (.ldImm x kk) ∧ decodeWord (wordXYN 0x8 x y 0) = .ok (.ldReg x y) ∧
    (∃ t, exec (.ldImm x kk) s = .next t ∧ t.reg x = kk ∧ RegsUnchangedExcept [x] s t ∧ t.pc = s.pc + 2#16 ∧
      t.status = .running ∧ UnchangedExcept [.regs, .pc, .status] s t) ∧
    (∃ t, exec (.ldReg x y) s = .next t ∧ t.reg x = s.reg y ∧ RegsUnchangedExcept [x] s t ∧ t.pc = s.pc + 2#16 ∧
      t.status = .running ∧ UnchangedExcept [.regs, .pc, .status] s t)

/-- R72: wraps modulo 256 and writes no flag: VF changes only when it is the destination. -/
def Obligations.AddImmediateWrapsWithoutFlag : Prop :=
  ∀ (x : Nibble) (kk : Byte) (s : State), decodeWord (wordXK 0x7 x kk) = .ok (.addImm x kk) ∧
    ∃ t, exec (.addImm x kk) s = .next t ∧ (t.reg x).toNat = ((s.reg x).toNat + kk.toNat) % 256 ∧
      RegsUnchangedExcept [x] s t ∧ t.pc = s.pc + 2#16 ∧ t.status = .running ∧
      UnchangedExcept [.regs, .pc, .status] s t

/-- R74, R75, R81: bit by bit, no flag. -/
def Obligations.LogicIsBitwiseWithoutFlag : Prop :=
  ∀ (x y : Nibble) (s : State),
    decodeWord (wordXYN 0x8 x y 1) = .ok (.orReg x y) ∧ decodeWord (wordXYN 0x8 x y 2) = .ok (.andReg x y) ∧
    decodeWord (wordXYN 0x8 x y 3) = .ok (.xorReg x y) ∧
    (∃ t, exec (.orReg x y) s = .next t ∧
      (∀ k, (t.reg x).getLsbD k = ((s.reg x).getLsbD k || (s.reg y).getLsbD k)) ∧
      RegsUnchangedExcept [x] s t ∧ t.pc = s.pc + 2#16 ∧ t.status = .running ∧
      UnchangedExcept [.regs, .pc, .status] s t) ∧
    (∃ t, exec (.andReg x y) s = .next t ∧
      (∀ k, (t.reg x).getLsbD k = ((s.reg x).getLsbD k && (s.reg y).getLsbD k)) ∧
      RegsUnchangedExcept [x] s t ∧ t.pc = s.pc + 2#16 ∧ t.status = .running ∧
      UnchangedExcept [.regs, .pc, .status] s t) ∧
    (∃ t, exec (.xorReg x y) s = .next t ∧
      (∀ k, (t.reg x).getLsbD k = ((s.reg x).getLsbD k ^^ (s.reg y).getLsbD k)) ∧
      RegsUnchangedExcept [x] s t ∧ t.pc = s.pc + 2#16 ∧ t.status = .running ∧
      UnchangedExcept [.regs, .pc, .status] s t)

/-- R76: VF is the carry out of bit 7, whatever x is (the flag is written last); the sum is in V[x] unless x is 15. -/
def Obligations.AddRegistersSetsCarry : Prop :=
  ∀ (x y : Nibble) (s : State), decodeWord (wordXYN 0x8 x y 4) = .ok (.addReg x y) ∧
    ∃ t, exec (.addReg x y) s = .next t ∧
      t.reg 15 = (if 0xFF < (s.reg x).toNat + (s.reg y).toNat then 1#8 else 0#8) ∧
      (x ≠ 15 → (t.reg x).toNat = ((s.reg x).toNat + (s.reg y).toNat) % 256) ∧
      RegsUnchangedExcept [x, 15] s t ∧ t.pc = s.pc + 2#16 ∧ t.status = .running ∧
      UnchangedExcept [.regs, .pc, .status] s t

/-- R77: VF is the not-borrow. -/
def Obligations.SubtractSetsNotBorrow : Prop :=
  ∀ (x y : Nibble) (s : State), decodeWord (wordXYN 0x8 x y 5) = .ok (.subReg x y) ∧
    ∃ t, exec (.subReg x y) s = .next t ∧
      t.reg 15 = (if (s.reg y).toNat ≤ (s.reg x).toNat then 1#8 else 0#8) ∧
      (x ≠ 15 → (t.reg x).toNat = ((s.reg x).toNat + 256 - (s.reg y).toNat) % 256) ∧
      RegsUnchangedExcept [x, 15] s t ∧ t.pc = s.pc + 2#16 ∧ t.status = .running ∧
      UnchangedExcept [.regs, .pc, .status] s t

/-- R79: the reverse subtraction; VF is 1 when V[y] ≥ V[x]. -/
def Obligations.SubtractReverseSetsNotBorrow : Prop :=
  ∀ (x y : Nibble) (s : State), decodeWord (wordXYN 0x8 x y 7) = .ok (.subn x y) ∧
    ∃ t, exec (.subn x y) s = .next t ∧
      t.reg 15 = (if (s.reg x).toNat ≤ (s.reg y).toNat then 1#8 else 0#8) ∧
      (x ≠ 15 → (t.reg x).toNat = ((s.reg y).toNat + 256 - (s.reg x).toNat) % 256) ∧
      RegsUnchangedExcept [x, 15] s t ∧ t.pc = s.pc + 2#16 ∧ t.status = .running ∧
      UnchangedExcept [.regs, .pc, .status] s t

/-- R78: V[x] shifted right in place, VF the old bit 0; y plays no part. -/
def Obligations.ShiftRightSetsOldBitZero : Prop :=
  ∀ (x y : Nibble) (s : State), decodeWord (wordXYN 0x8 x y 6) = .ok (.shr x y) ∧
    ∃ t, exec (.shr x y) s = .next t ∧ (t.reg 15).toNat = (s.reg x).toNat % 2 ∧
      (x ≠ 15 → (t.reg x).toNat = (s.reg x).toNat / 2) ∧
      RegsUnchangedExcept [x, 15] s t ∧ t.pc = s.pc + 2#16 ∧ t.status = .running ∧
      UnchangedExcept [.regs, .pc, .status] s t

/-- R80: V[x] shifted left in place, VF the old bit 7; y plays no part. -/
def Obligations.ShiftLeftSetsOldBitSeven : Prop :=
  ∀ (x y : Nibble) (s : State), decodeWord (wordXYN 0x8 x y 0xE) = .ok (.shl x y) ∧
    ∃ t, exec (.shl x y) s = .next t ∧ (t.reg 15).toNat = (s.reg x).toNat / 128 ∧
      (x ≠ 15 → (t.reg x).toNat = 2 * (s.reg x).toNat % 256) ∧
      RegsUnchangedExcept [x, 15] s t ∧ t.pc = s.pc + 2#16 ∧ t.status = .running ∧
      UnchangedExcept [.regs, .pc, .status] s t

/-- R82 with the model's free value for the draw (notes/assumptions/1.md): the draw and the mask; no bit is set that kk
has clear; the next RND takes another draw. True of every sequence of draws. -/
def Obligations.RandomIsDrawAndMask : Prop :=
  ∀ (x : Nibble) (kk : Byte) (s : State), decodeWord (wordXK 0xC x kk) = .ok (.rnd x kk) ∧
    ∃ t, exec (.rnd x kk) s = .next t ∧ t.reg x = (Config.rnd s.draws &&& kk) ∧ t.draws = s.draws + 1 ∧
      (∀ k, kk.getLsbD k = false → (t.reg x).getLsbD k = false) ∧
      RegsUnchangedExcept [x] s t ∧ t.pc = s.pc + 2#16 ∧ t.status = .running ∧
      UnchangedExcept [.regs, .draws, .pc, .status] s t

/-! ### Address register and memory (42_index_memory.md) -/

/-- R85. -/
def Obligations.SetIndexZeroExtends : Prop :=
  ∀ (nnn : Addr) (s : State), decodeWord (wordA 0xA nnn) = .ok (.ldI nnn) ∧
    ∃ t, exec (.ldI nnn) s = .next t ∧ t.i.toNat = nnn.toNat ∧ t.pc = s.pc + 2#16 ∧ t.status = .running ∧
      UnchangedExcept [.index, .pc, .status] s t

/-- R86: modulo 2^16, no flag. -/
def Obligations.AddToIndexWrapsWithoutFlag : Prop :=
  ∀ (x : Nibble) (s : State), decodeWord (wordXK 0xF x 0x1E) = .ok (.addI x) ∧
    ∃ t, exec (.addI x) s = .next t ∧ t.i.toNat = (s.i.toNat + (s.reg x).toNat) % 65536 ∧
      t.pc = s.pc + 2#16 ∧ t.status = .running ∧ UnchangedExcept [.index, .pc, .status] s t

/-- R87: five times the digit; above 15, GlyphIndexRange with the register's value. -/
def Obligations.GlyphAddressIsFiveTimesTheDigit : Prop :=
  ∀ (x : Nibble) (s : State), decodeWord (wordXK 0xF x 0x29) = .ok (.ldF x) ∧
    ((s.reg x).toNat ≤ 0x0F → ∃ t, exec (.ldF x) s = .next t ∧ t.i.toNat = 5 * (s.reg x).toNat ∧
      t.pc = s.pc + 2#16 ∧ t.status = .running ∧ UnchangedExcept [.index, .pc, .status] s t) ∧
    (0x0F < (s.reg x).toNat → ∃ t info, exec (.ldF x) s = .next t ∧ info.toNat = (s.reg x).toNat ∧
      FaultEntered .glyphIndexRange info s t)

/-- R89: three digits at I, I + 1, I + 2 and no other byte; past 0xFFF, MemWriteRange with nothing written. -/
def Obligations.StoreBcdWritesThreeDigits : Prop :=
  ∀ (x : Nibble) (s : State), decodeWord (wordXK 0xF x 0x33) = .ok (.ldB x) ∧
    (s.i.toNat + 2 ≤ 0xFFF → ∃ t, exec (.ldB x) s = .next t ∧
      (Memory.read t.mem s.i.toNat).toNat = (s.reg x).toNat / 100 ∧
      (Memory.read t.mem (s.i.toNat + 1)).toNat = (s.reg x).toNat / 10 % 10 ∧
      (Memory.read t.mem (s.i.toNat + 2)).toNat = (s.reg x).toNat % 10 ∧
      (∀ a, (a < s.i.toNat ∨ s.i.toNat + 2 < a) → Memory.read t.mem a = Memory.read s.mem a) ∧
      t.pc = s.pc + 2#16 ∧ t.status = .running ∧ UnchangedExcept [.mem, .pc, .status] s t) ∧
    (0xFFF < s.i.toNat + 2 → ∃ t, exec (.ldB x) s = .next t ∧ FaultEntered .memWriteRange s.i s t)

/-- R90: V[0] to V[x] at I, ascending, and no other byte; I moves by the count; past 0xFFF, MemWriteRange. -/
def Obligations.DumpStoresRegistersAndAdvancesI : Prop :=
  ∀ (x : Nibble) (s : State), decodeWord (wordXK 0xF x 0x55) = .ok (.dump x) ∧
    (s.i.toNat + x.toNat ≤ 0xFFF → ∃ t, exec (.dump x) s = .next t ∧
      (∀ r : Nibble, r.toNat ≤ x.toNat → Memory.read t.mem (s.i.toNat + r.toNat) = s.reg r) ∧
      (∀ a, (a < s.i.toNat ∨ s.i.toNat + x.toNat < a) → Memory.read t.mem a = Memory.read s.mem a) ∧
      t.i.toNat = s.i.toNat + x.toNat + 1 ∧ t.pc = s.pc + 2#16 ∧ t.status = .running ∧
      UnchangedExcept [.mem, .index, .pc, .status] s t) ∧
    (0xFFF < s.i.toNat + x.toNat → ∃ t, exec (.dump x) s = .next t ∧ FaultEntered .memWriteRange s.i s t)

/-- R91: V[0] to V[x] from I, ascending, and no other register; I moves by the count; past 0xFFF, MemReadRange. -/
def Obligations.LoadReadsRegistersAndAdvancesI : Prop :=
  ∀ (x : Nibble) (s : State), decodeWord (wordXK 0xF x 0x65) = .ok (.load x) ∧
    (s.i.toNat + x.toNat ≤ 0xFFF → ∃ t, exec (.load x) s = .next t ∧
      (∀ r : Nibble, t.reg r =
        if r.toNat ≤ x.toNat then Memory.read s.mem (s.i.toNat + r.toNat) else s.reg r) ∧
      t.i.toNat = s.i.toNat + x.toNat + 1 ∧ t.pc = s.pc + 2#16 ∧ t.status = .running ∧
      UnchangedExcept [.regs, .index, .pc, .status] s t) ∧
    (0xFFF < s.i.toNat + x.toNat → ∃ t, exec (.load x) s = .next t ∧ FaultEntered .memReadRange s.i s t)

/-- The property E5 of the source (R90, R91): a load from where a dump stored, with I put back, gives V[0] to V[x] their
values at the dump, whatever the registers held in between; I ends at the same address both times. -/
def Obligations.LoadAfterDumpRestoresRegisters : Prop :=
  ∀ (x : Nibble) (s : State), s.i.toNat + x.toNat ≤ 0xFFF →
    ∃ t, exec (.dump x) s = .next t ∧
      ∀ u : State, u.mem = t.mem → u.i = s.i →
        ∃ w, exec (.load x) u = .next w ∧ w.i = t.i ∧ ∀ r : Nibble, r.toNat ≤ x.toNat → w.reg r = s.reg r

/-! ### Framebuffer (43_display.md) -/

/-- R93. -/
def Obligations.ClearScreenBlanksEveryPixel : Prop :=
  ∀ s : State, decodeWord 0x00E0 = .ok .cls ∧
    ∃ t, exec .cls s = .next t ∧ (∀ y x, t.fb.pixel y x = false) ∧ t.dirty = true ∧ t.pc = s.pc + 2#16 ∧
      t.status = .running ∧ UnchangedExcept [.fb, .dirty, .pc, .status] s t

/-- R94: a pixel is flipped exactly if a 1 bit of the sprite covers it; VF says whether a covered pixel was on; past
0xFFF, MemReadRange. `n = 0` covers nothing and checks nothing. -/
def Obligations.DrawFlipsCoveredPixels : Prop :=
  ∀ (x y n : Nibble) (s : State), decodeWord (wordXYN 0xD x y n) = .ok (.drw x y n) ∧
    ((n.toNat = 0 ∨ s.i.toNat + n.toNat - 1 ≤ 0xFFF) → ∃ t, exec (.drw x y n) s = .next t ∧
      (∀ py px, SpriteCovers s x y n py px → t.fb.pixel py px = !s.fb.pixel py px) ∧
      (∀ py px, ¬ SpriteCovers s x y n py px → t.fb.pixel py px = s.fb.pixel py px) ∧
      ((∃ py px, SpriteCovers s x y n py px ∧ s.fb.pixel py px = true) → t.reg 15 = 1#8) ∧
      ((∀ py px, SpriteCovers s x y n py px → s.fb.pixel py px = false) → t.reg 15 = 0#8) ∧
      RegsUnchangedExcept [15] s t ∧ t.dirty = true ∧ t.pc = s.pc + 2#16 ∧ t.status = .running ∧
      UnchangedExcept [.fb, .regs, .dirty, .pc, .status] s t) ∧
    (0 < n.toNat → 0xFFF < s.i.toNat + n.toNat - 1 → ∃ t, exec (.drw x y n) s = .next t ∧
      FaultEntered .memReadRange s.i s t)

/-- R96 (1): after a clear-screen a draw leaves exactly the sprite's pixels on, and no collision. -/
def Obligations.DrawOnClearedScreenShowsTheSprite : Prop :=
  ∀ (x y n : Nibble) (s : State), (n.toNat = 0 ∨ s.i.toNat + n.toNat - 1 ≤ 0xFFF) →
    ∃ t u, exec .cls s = .next t ∧ exec (.drw x y n) t = .next u ∧ u.reg 15 = 0#8 ∧
      ∀ py px, u.fb.pixel py px = true ↔ SpriteCovers s x y n py px

/-- R96 (2), as 90_conflicts.md C6 resolves it: the same draw twice, VF being no coordinate, restores the whole
framebuffer; the second flag is 1 exactly when the sprite covered a pixel that was off. With x or y 15 the first draw's flag moves the
second draw (R96); each single draw is then as `DrawFlipsCoveredPixels` says. -/
def Obligations.DrawTwiceRestoresTheScreen : Prop :=
  ∀ (x y n : Nibble) (s : State), x ≠ 15 → y ≠ 15 → (n.toNat = 0 ∨ s.i.toNat + n.toNat - 1 ≤ 0xFFF) →
    ∃ t u, exec (.drw x y n) s = .next t ∧ exec (.drw x y n) t = .next u ∧ u.fb = s.fb ∧
      (u.reg 15 = 1#8 ↔ ∃ py px, SpriteCovers s x y n py px ∧ s.fb.pixel py px = false)

/-! ### Keys and timers (44_keys_timers.md, 60_exceptions.md) -/

/-- R100, R101: the register's value is the key; above 15, KeyIndexRange with that value. -/
def Obligations.KeySkipsTestTheLatch : Prop :=
  ∀ (x : Nibble) (s : State),
    decodeWord (wordXK 0xE x 0x9E) = .ok (.skp x) ∧ decodeWord (wordXK 0xE x 0xA1) = .ok (.sknp x) ∧
    ((s.reg x).toNat ≤ 0x0F →
      (∃ t, exec (.skp x) s = .next t ∧
        t.pc = (if s.keyDown (s.reg x).toNat = true then s.pc + 4#16 else s.pc + 2#16) ∧
        t.status = .running ∧ UnchangedExcept [.pc, .status] s t) ∧
      (∃ t, exec (.sknp x) s = .next t ∧
        t.pc = (if s.keyDown (s.reg x).toNat = false then s.pc + 4#16 else s.pc + 2#16) ∧
        t.status = .running ∧ UnchangedExcept [.pc, .status] s t)) ∧
    (0x0F < (s.reg x).toNat →
      (∃ t info, exec (.skp x) s = .next t ∧ info.toNat = (s.reg x).toNat ∧
        FaultEntered .keyIndexRange info s t) ∧
      (∃ t info, exec (.sknp x) s = .next t ∧ info.toNat = (s.reg x).toNat ∧
        FaultEntered .keyIndexRange info s t))

/-- R102: with no key pressed nothing changes but the status, and the Step reports Blocked; else the lowest pressed key
goes to V[x]. -/
def Obligations.WaitForKeyTakesTheLowestKey : Prop :=
  ∀ (x : Nibble) (s : State), decodeWord (wordXK 0xF x 0x0A) = .ok (.ldVxK x) ∧
    ((∀ k, k < 16 → s.keyDown k = false) → ∃ t, exec (.ldVxK x) s = .next t ∧ t.status = .blockedOnKey ∧
      UnchangedExcept [.status] s t) ∧
    ((∀ k, k < 16 → s.keyDown k = false) → s.status ≠ .halted → InstrAtPc s (.ldVxK x) →
      stepReport s = some .blocked) ∧
    (∀ k, k < 16 → s.keyDown k = true → (∀ j, j < k → s.keyDown j = false) →
      ∃ t, exec (.ldVxK x) s = .next t ∧ (t.reg x).toNat = k ∧ RegsUnchangedExcept [x] s t ∧
        t.pc = s.pc + 2#16 ∧ t.status = .running ∧ UnchangedExcept [.regs, .pc, .status] s t)

/-- R103, R104, R105: the three timer moves. -/
def Obligations.TimerInstructionsMoveTheTimers : Prop :=
  ∀ (x : Nibble) (s : State),
    decodeWord (wordXK 0xF x 0x07) = .ok (.ldVxDt x) ∧ decodeWord (wordXK 0xF x 0x15) = .ok (.ldDtVx x) ∧
    decodeWord (wordXK 0xF x 0x18) = .ok (.ldStVx x) ∧
    (∃ t, exec (.ldVxDt x) s = .next t ∧ t.reg x = s.dt ∧ RegsUnchangedExcept [x] s t ∧ t.pc = s.pc + 2#16 ∧
      t.status = .running ∧ UnchangedExcept [.regs, .pc, .status] s t) ∧
    (∃ t, exec (.ldDtVx x) s = .next t ∧ t.dt = s.reg x ∧ t.pc = s.pc + 2#16 ∧ t.status = .running ∧
      UnchangedExcept [.dt, .pc, .status] s t) ∧
    (∃ t, exec (.ldStVx x) s = .next t ∧ t.st = s.reg x ∧ t.pc = s.pc + 2#16 ∧ t.status = .running ∧
      UnchangedExcept [.st, .pc, .status] s t)

/-- R120, R136 (3): n Ticks take each timer down by n and stop it at 0, and change nothing else, in every status. -/
def Obligations.TicksCountBothTimersDown : Prop :=
  ∀ (font : Vector Byte 80) (n : Nat) (s : State),
    (performAll font (List.replicate n .tick) s).dt.toNat = s.dt.toNat - n ∧
    (performAll font (List.replicate n .tick) s).st.toNat = s.st.toNat - n ∧
    UnchangedExcept [.dt, .st] s (performAll font (List.replicate n .tick) s)

/-- R123, R124: SetKeys replaces all sixteen latches and nothing else; AckDirty clears `dirty` and nothing else. -/
def Obligations.SetKeysAndAckDirtyWriteOnlyTheirOwn : Prop :=
  ∀ (font : Vector Byte 80) (k : BitVec 16) (s : State),
    (∃ t, perform font (.setKeys k) s = .next t ∧ (∀ j, t.keyDown j = k.getLsbD j) ∧ UnchangedExcept [.key] s t) ∧
    (∃ t, perform font .ackDirty s = .next t ∧ t.dirty = false ∧ UnchangedExcept [.dirty] s t)

/-! ### The RCA call (45_unknown.md) -/

/-- R108: SYS is a counted no-op, wherever its nnn points, and the Step reports it with its word. -/
def Obligations.SysIsCountedNop : Prop :=
  ∀ (nnn : Addr) (s : State),
    (nnn ≠ 0x0E0 → nnn ≠ 0x0EE → decodeWord (wordA 0x0 nnn) = .ok (.sys nnn)) ∧
    (∃ t, exec (.sys nnn) s = .next t ∧ t.unkCount = s.unkCount + 1 ∧ t.pc = s.pc + 2#16 ∧ t.status = .running ∧
      UnchangedExcept [.unkCount, .pc, .status] s t) ∧
    (∀ w, s.status ≠ .halted → fetch s = some w → decodeWord w = .ok (.sys nnn) →
      stepReport s = some (.unknownNop w))

/-! ### Rules over all instructions -/

/-- R9, R16, R106: no instruction changes KEY; only set-delay-timer changes DT and only set-sound-timer ST. -/
def Obligations.OnlyTimerInstructionsChangeTimers : Prop :=
  ∀ (i : Instr) (s t : State), exec i s = .next t →
    t.key = s.key ∧ (t.dt ≠ s.dt → ∃ x, i = .ldDtVx x) ∧ (t.st ≠ s.st → ∃ x, i = .ldStVx x)

/-- R31: only store-BCD and register-dump change a byte of Memory. -/
def Obligations.OnlyStoresChangeMemory : Prop :=
  ∀ (i : Instr) (s t : State) (a : Nat), exec i s = .next t → Memory.read t.mem a ≠ Memory.read s.mem a →
    ∃ x, i = .ldB x ∨ i = .dump x

/-- R9, R12: only the five instructions named change I. -/
def Obligations.OnlyFiveInstructionsChangeI : Prop :=
  ∀ (i : Instr) (s t : State), exec i s = .next t → t.i ≠ s.i →
    (∃ nnn, i = .ldI nnn) ∨ ∃ x, i = .addI x ∨ i = .ldF x ∨ i = .dump x ∨ i = .load x

/-- R11: VF changes only by the six flag-writing instructions or as an ordinary destination that a field names. -/
def Obligations.OnlyFlagWritersAndDestinationsChangeVF : Prop :=
  ∀ (i : Instr) (s t : State), exec i s = .next t → t.reg 15 ≠ s.reg 15 →
    (∃ x y, i = .addReg x y ∨ i = .subReg x y ∨ i = .shr x y ∨ i = .subn x y ∨ i = .shl x y) ∨
    (∃ x y n, i = .drw x y n) ∨
    (∃ kk, i = .ldImm 15 kk ∨ i = .addImm 15 kk ∨ i = .rnd 15 kk) ∨
    (∃ y, i = .ldReg 15 y ∨ i = .orReg 15 y ∨ i = .andReg 15 y ∨ i = .xorReg 15 y) ∨
    i = .ldVxDt 15 ∨ i = .ldVxK 15 ∨ i = .load 15

/-- R18, R19: only clear-screen and draw-sprite change the framebuffer or `dirty`, and no instruction clears `dirty`. -/
def Obligations.OnlyDisplayInstructionsPaint : Prop :=
  ∀ (i : Instr) (s t : State), exec i s = .next t →
    (s.dirty = true → t.dirty = true) ∧
    (t.fb ≠ s.fb ∨ t.dirty ≠ s.dirty → i = .cls ∨ ∃ x y n, i = .drw x y n)

/-- R138: from a settled state a Step changes nothing. -/
def Obligations.SettledStepChangesNothing : Prop :=
  ∀ (s : State) (a : Addr), SettledAt s a → step s = .next s

/-! ### Invariants -/

/-- Every Step keeps Memory in its canonical form (the model's own, notes/assumptions/6.md), so it never lists an address
outside 0x000..0xFFF (20_memory.md R30, R38). -/
def Obligations.StepKeepsMemoryCanonical : Prop :=
  ∀ s t : State, MemCanonical s → step s = .next t → MemCanonical t

/-- R13: every Step keeps pc at most 0x10FE and every stack slot at most 0x1000. -/
def Obligations.StepKeepsPcBounded : Prop :=
  ∀ s t : State, PcBounded s → step s = .next t → PcBounded t

/-- R20: BLOCKED_ON_KEY is an observation: in it, the instruction at pc is wait-for-key. -/
def Obligations.BlockedOnlyAtWaitForKey : Prop :=
  ∀ s t : State, BlockedAtWait s → step s = .next t → BlockedAtWait t

/-- R21, R112, R113: the fault record is written once, with HALTED, and names a cause that the state it left meets. -/
def Obligations.StepKeepsFaultExplained : Prop :=
  ∀ s t : State, FaultRecorded s → FaultExplained s → step s = .next t → FaultRecorded t ∧ FaultExplained t

/-- The whole invariant holds under every schedule of Steps, Ticks, SetKeys, AckDirty and Resets, for every font
(R6, R121). Schedules as lists of moves and the canonical form of Memory are the model's choice (notes/assumptions/5.md,
notes/assumptions/6.md). -/
def Obligations.EveryScheduleKeepsTheInvariant : Prop :=
  ∀ (font : Vector Byte 80) (ms : List Move) (s : State), Inv s → Inv (performAll font ms s)

/-- The invariant holds at `State.reset` (R26, R131). Its clause that Memory is canonical is about the model's own form of
Memory, a choice of the model (notes/assumptions/6.md) of which the spec says nothing. -/
def Obligations.ResetMeetsTheInvariant : Prop := Inv State.reset
end

