-- ==== Sys2Proof/Laws/Memory.lean ====
section
/-! SUPPORT. The laws of Memory: a read after a write (of one byte, of a run of bytes), with no premise on the list, and
the canonical form kept by every operation. -/

namespace Sys2Proof.Machine

theorem Memory.read_insert (m : Memory) (a c : Nat) (b : Byte) :
    Memory.read (Memory.insert m a b) c = if c = a then b else Memory.read m c := by
  induction m with
  | nil => simp [Memory.insert, Memory.read, eq_comm]
  | cons e m ih =>
    obtain ⟨k, d⟩ := e
    simp only [Memory.insert]
    by_cases hca : c = a
    · subst hca
      split
      · have : k ≠ c := by omega
        simp [Memory.read, this, ih]
      · split <;> simp [Memory.read]
    · have hac : a ≠ c := Ne.symm hca
      split
      · simp [Memory.read, ih, hca]
      · split
        · rename_i h; subst h; simp [Memory.read, hac]
        · simp [Memory.read, hac]

theorem Memory.read_erase (m : Memory) (a c : Nat) :
    Memory.read (Memory.erase m a) c = if c = a then Memory.background a else Memory.read m c := by
  induction m with
  | nil => by_cases h : c = a <;> simp [Memory.erase, Memory.read, h]
  | cons e m ih =>
    obtain ⟨k, d⟩ := e
    unfold Memory.erase at ih ⊢
    by_cases hk : k = a
    · subst hk
      by_cases hc : c = k
      · subst hc; simpa using ih
      · simp [ih, hc, Memory.read, Ne.symm hc]
    · by_cases hc : c = a
      · subst hc; simp [hk, Memory.read, ih]
      · simp [hk, Memory.read, ih, hc]

/-- A byte reads as it was last written, and every other byte as before. -/
theorem Memory.read_write (m : Memory) (a c : Nat) (b : Byte) :
    Memory.read (Memory.write m a b) c = if c = a then b else Memory.read m c := by
  unfold Memory.write
  split
  · rename_i h; rw [Memory.read_erase]; simp [h]
  · exact Memory.read_insert m a c b

@[simp] theorem Memory.read_write_self (m : Memory) (a : Nat) (b : Byte) :
    Memory.read (Memory.write m a b) a = b := by simp [Memory.read_write]

theorem Memory.read_write_ne (m : Memory) {a c : Nat} (b : Byte) (h : c ≠ a) :
    Memory.read (Memory.write m a b) c = Memory.read m c := by simp [Memory.read_write, h]

/-- A run of bytes: each address of the run reads as its byte, every other as before. -/
theorem Memory.read_writeBytes (bs : List Byte) (m : Memory) (a c : Nat) :
    Memory.read (Memory.writeBytes m a bs) c =
      if h : a ≤ c ∧ c - a < bs.length then bs[c - a] else Memory.read m c := by
  induction bs generalizing a with
  | nil => simp [Memory.writeBytes]
  | cons b bs ih =>
    simp only [Memory.writeBytes, Memory.read_write, ih]
    by_cases hca : c = a
    · subst hca; simp
    · rw [if_neg hca]
      by_cases h : a + 1 ≤ c ∧ c - (a + 1) < bs.length
      · have h' : a ≤ c ∧ c - a < (b :: bs).length := by simp only [List.length_cons]; omega
        rw [dif_pos h, dif_pos h']
        have : c - a = (c - (a + 1)) + 1 := by omega
        simp [this]
      · have h' : ¬ (a ≤ c ∧ c - a < (b :: bs).length) := by simp only [List.length_cons]; omega
        rw [dif_neg h, dif_neg h']

theorem Memory.read_writeBytes_of_lt (m : Memory) (bs : List Byte) (a k : Nat) (h : k < bs.length) :
    Memory.read (Memory.writeBytes m a bs) (a + k) = bs[k] := by
  rw [Memory.read_writeBytes, dif_pos ⟨Nat.le_add_right a k, by omega⟩]
  congr 1
  omega

theorem Memory.read_writeBytes_outside (m : Memory) (bs : List Byte) {a c : Nat}
    (h : c < a ∨ a + bs.length ≤ c) : Memory.read (Memory.writeBytes m a bs) c = Memory.read m c := by
  rw [Memory.read_writeBytes, dif_neg (by omega)]

theorem Memory.length_readBytes (m : Memory) (a count : Nat) :
    (Memory.readBytes m a count).length = count := by simp [Memory.readBytes]

theorem Memory.getElem_readBytes (m : Memory) (a count k : Nat) (h : k < (Memory.readBytes m a count).length) :
    (Memory.readBytes m a count)[k] = Memory.read m (a + k) := by simp [Memory.readBytes]

/-! ### The canonical form -/

theorem Memory.wf_nil : Memory.wf [] := ⟨List.Pairwise.nil, by simp⟩

theorem Memory.mem_insert {m : Memory} {a : Nat} {b : Byte} {c : Host.Cell} (h : c ∈ Memory.insert m a b) :
    c = (a, b) ∨ c ∈ m := by
  induction m with
  | nil => simpa [Memory.insert] using h
  | cons e m ih =>
    obtain ⟨k, d⟩ := e
    simp only [Memory.insert] at h
    split at h
    · rcases List.mem_cons.mp h with h | h
      · exact .inr (by simp [h])
      · rcases ih h with h | h
        · exact .inl h
        · exact .inr (List.mem_cons_of_mem _ h)
    · split at h
      · rcases List.mem_cons.mp h with h | h
        · exact .inl h
        · exact .inr (List.mem_cons_of_mem _ h)
      · rcases List.mem_cons.mp h with h | h
        · exact .inl h
        · exact .inr h

theorem Memory.insert_sorted {m : Memory} (a : Nat) (b : Byte) (h : m.Pairwise (fun c d => c.1 < d.1)) :
    (Memory.insert m a b).Pairwise (fun c d => c.1 < d.1) := by
  induction m with
  | nil => simp [Memory.insert]
  | cons e m ih =>
    obtain ⟨k, d⟩ := e
    obtain ⟨hk, hm⟩ := List.pairwise_cons.mp h
    simp only [Memory.insert]
    split
    · refine List.pairwise_cons.mpr ⟨fun c hc => ?_, ih hm⟩
      rcases Memory.mem_insert hc with rfl | hc
      · assumption
      · exact hk c hc
    · split
      · rename_i h1 h2
        subst h2
        exact List.pairwise_cons.mpr ⟨hk, hm⟩
      · refine List.pairwise_cons.mpr ⟨fun c hc => ?_, h⟩
        have ha : a < k := by omega
        rcases List.mem_cons.mp hc with rfl | hc
        · exact ha
        · exact Nat.lt_trans ha (hk c hc)

theorem Memory.write_wf {m : Memory} {a : Nat} (b : Byte) (ha : a < Config.memSize) (h : Memory.wf m) :
    Memory.wf (Memory.write m a b) := by
  unfold Memory.write
  split
  · exact ⟨h.1.filter _, fun c hc => h.2 c (List.mem_of_mem_filter hc)⟩
  · rename_i hb
    refine ⟨Memory.insert_sorted a b h.1, fun c hc => ?_⟩
    rcases Memory.mem_insert hc with rfl | hc
    · exact ⟨ha, hb⟩
    · exact h.2 c hc

theorem Memory.writeBytes_wf (bs : List Byte) {m : Memory} {a : Nat} (ha : a + bs.length ≤ Config.memSize)
    (h : Memory.wf m) : Memory.wf (Memory.writeBytes m a bs) := by
  induction bs generalizing a with
  | nil => exact h
  | cons b bs ih =>
    simp only [List.length_cons] at ha
    exact Memory.write_wf b (by omega) (ih (by omega))

/-- The range check, as the bound that the writes need. -/
theorem rangeOk_iff (a : Word) (count : Nat) :
    rangeOk a count = true ↔ count = 0 ∨ a.toNat + count ≤ Config.memSize := by
  simp only [rangeOk, decide_eq_true_eq]
  show _ ↔ count = 0 ∨ a.toNat + count ≤ 4096
  omega

end Sys2Proof.Machine
end

