-- ==== Sys2Proof/Laws/Display.lean ====
section
/-! SUPPORT. What the compositor does, pixel by pixel: a list of distinct pixels is flipped, and the collision says that
one of them was on. The pixels of a sprite are distinct (43_display.md R94). -/

namespace Sys2Proof.Machine

theorem Framebuffer.pixel_flip (fb : Framebuffer) (y y' : Fin 32) (x x' : Fin 64) :
    (fb.flip y x).pixel y' x' = (fb.pixel y' x' ^^ decide (y' = y ∧ x' = x)) := by
  unfold Framebuffer.pixel Framebuffer.flip
  by_cases hy : y' = y
  · subst hy
    simp [Fin.getElem_fin, Fin.ext_iff]
  · have hv : y.val ≠ y'.val := fun e => hy (Fin.ext e.symm)
    simp [Fin.getElem_fin, hv, hy]

theorem Framebuffer.ext_pixel {fb fb' : Framebuffer} (h : ∀ y x, fb.pixel y x = fb'.pixel y x) : fb = fb' := by
  apply Vector.ext
  intro y hy
  apply BitVec.eq_of_getLsbD_eq
  intro x hx
  exact h ⟨y, hy⟩ ⟨x, hx⟩

@[simp] theorem blankFramebuffer_pixel (y : Fin 32) (x : Fin 64) : blankFramebuffer.pixel y x = false := by
  simp [Framebuffer.pixel, blankFramebuffer, Fin.getElem_fin]

/-- The draw of distinct pixels: each is flipped, no other changes, and the collision is that one of them was on. -/
theorem composite_foldl (ps : List (Fin 32 × Fin 64)) (hps : ps.Nodup) (fb : Framebuffer) (c : Bool) :
    (∀ y x, (ps.foldl compositePixel (fb, c)).1.pixel y x = (fb.pixel y x ^^ decide ((y, x) ∈ ps))) ∧
      (ps.foldl compositePixel (fb, c)).2 = (c || ps.any fun p => fb.pixel p.1 p.2) := by
  induction ps generalizing fb c with
  | nil => simp
  | cons p ps ih =>
    obtain ⟨py, px⟩ := p
    obtain ⟨hp, hnd⟩ := List.nodup_cons.mp hps
    obtain ⟨ih1, ih2⟩ := ih hnd (fb.flip py px) (c || fb.pixel py px)
    simp only [List.foldl_cons, compositePixel]
    refine ⟨fun y x => ?_, ?_⟩
    · rw [ih1, Framebuffer.pixel_flip]
      by_cases h : y = py ∧ x = px
      · obtain ⟨rfl, rfl⟩ := h
        simp [hp]
      · have h' : ¬ (y, x) = (py, px) := by simpa [Prod.ext_iff] using h
        simp [h, List.mem_cons, h']
    · rw [ih2, List.any_cons, Bool.or_assoc]
      congr 2
      rw [Bool.eq_iff_iff, List.any_eq_true, List.any_eq_true]
      have key : ∀ q ∈ ps, (fb.flip py px).pixel q.1 q.2 = fb.pixel q.1 q.2 := by
        intro q hq
        rw [Framebuffer.pixel_flip]
        have : ¬ (q.1 = py ∧ q.2 = px) := by
          rintro ⟨h1, h2⟩
          exact hp (by rw [← h1, ← h2]; exact hq)
        simp [this]
      constructor
      · rintro ⟨q, hq, h⟩; exact ⟨q, hq, by rwa [key q hq] at h⟩
      · rintro ⟨q, hq, h⟩; exact ⟨q, hq, by rwa [key q hq]⟩

theorem composite_pixel (fb : Framebuffer) {ps : List (Fin 32 × Fin 64)} (hps : ps.Nodup) (y : Fin 32) (x : Fin 64) :
    (composite fb ps).1.pixel y x = (fb.pixel y x ^^ decide ((y, x) ∈ ps)) :=
  (composite_foldl ps hps fb false).1 y x

theorem composite_collision (fb : Framebuffer) {ps : List (Fin 32 × Fin 64)} (hps : ps.Nodup) :
    (composite fb ps).2 = ps.any fun p => fb.pixel p.1 p.2 :=
  (composite_foldl ps hps fb false).2.trans (Bool.false_or _)

/-! ### The pixels of a sprite -/

theorem mem_rowPixels {x0 y : Nat} {b : Byte} {p : Fin 32 × Fin 64} :
    p ∈ rowPixels x0 y b ↔
      ∃ c, c < 8 ∧ b.getLsbD (7 - c) = true ∧ p.1.val = y % 32 ∧ p.2.val = (x0 + c) % 64 := by
  simp only [rowPixels, List.mem_filterMap, List.mem_range]
  constructor
  · rintro ⟨c, hc, h⟩
    split at h
    · rename_i hb
      cases h
      exact ⟨c, hc, hb, by simp [Fin.ofNat], by simp [Fin.ofNat]⟩
    · cases h
  · rintro ⟨c, hc, hb, h1, h2⟩
    refine ⟨c, hc, ?_⟩
    rw [if_pos hb]
    congr 1
    exact Prod.ext (Fin.ext (by simp [Fin.ofNat, h1])) (Fin.ext (by simp [Fin.ofNat, h2]))

theorem mem_spritePixels {x0 y0 : Nat} {bs : List Byte} {p : Fin 32 × Fin 64} :
    p ∈ spritePixels x0 y0 bs ↔
      ∃ r, ∃ h : r < bs.length, ∃ c, c < 8 ∧ bs[r].getLsbD (7 - c) = true ∧
        p.1.val = (y0 + r) % 32 ∧ p.2.val = (x0 + c) % 64 := by
  induction bs generalizing y0 with
  | nil => simp [spritePixels]
  | cons b bs ih =>
    simp only [spritePixels, List.mem_append, mem_rowPixels, ih]
    constructor
    · rintro (⟨c, hc, hb, h1, h2⟩ | ⟨r, hr, c, hc, hb, h1, h2⟩)
      · exact ⟨0, by simp, c, hc, by simpa using hb, by simpa using h1, h2⟩
      · exact ⟨r + 1, by simpa using hr, c, hc, by simpa using hb, by rw [h1]; congr 1; omega, h2⟩
    · rintro ⟨r, hr, c, hc, hb, h1, h2⟩
      cases r with
      | zero => exact .inl ⟨c, hc, by simpa using hb, by simpa using h1, h2⟩
      | succ r =>
        exact .inr ⟨r, by simpa using hr, c, hc, by simpa using hb, by rw [h1]; congr 1; omega, h2⟩

theorem rowPixels_nodup (x0 y : Nat) (b : Byte) : (rowPixels x0 y b).Nodup := by
  unfold rowPixels List.Nodup
  rw [List.pairwise_filterMap]
  refine List.Pairwise.imp_of_mem ?_ (List.nodup_range (n := 8))
  intro c d hc hd hne p hp q hq hpq
  rw [List.mem_range] at hc hd
  split at hp <;> split at hq <;> simp only [Option.some.injEq, reduceCtorEq] at hp hq
  have h : (x0 + c) % 64 = (x0 + d) % 64 := by
    have := hp.trans (hpq.trans hq.symm)
    simpa [Fin.ofNat, Fin.ext_iff] using congrArg Prod.snd this
  omega

/-- No pixel is touched twice in one draw (R94), up to 32 rows. -/
theorem spritePixels_nodup (x0 y0 : Nat) (bs : List Byte) (h : bs.length ≤ 32) : (spritePixels x0 y0 bs).Nodup := by
  induction bs generalizing y0 with
  | nil => exact List.nodup_nil
  | cons b bs ih =>
    rw [List.length_cons] at h
    refine List.nodup_append.mpr ⟨rowPixels_nodup x0 y0 b, ih (y0 + 1) (by omega), ?_⟩
    intro p hp q hq hpq
    subst hpq
    obtain ⟨_, _, _, h1, _⟩ := mem_rowPixels.mp hp
    obtain ⟨r, hr, _, _, _, h2, _⟩ := mem_spritePixels.mp hq
    omega

end Sys2Proof.Machine
end

