-- ==== Sys2Proof/Laws/Encoding.lean ====
section
/-! SUPPORT. What the field extractors of 30_encoding.md R46 give on the words of each format (R47), and that a word is
made of its fields. -/

namespace Sys2Proof

@[simp] theorem fieldOp_wordA (op : Nibble) (nnn : Addr) : fieldOp (wordA op nnn) = op := by
  unfold fieldOp wordA
  ext i hi
  interval_cases i <;> simp

@[simp] theorem fieldNNN_wordA (op : Nibble) (nnn : Addr) : fieldNNN (wordA op nnn) = nnn := by
  unfold fieldNNN wordA
  ext i hi
  interval_cases i <;> simp

@[simp] theorem fieldOp_wordXK (op x : Nibble) (kk : Byte) : fieldOp (wordXK op x kk) = op := by
  unfold fieldOp wordXK
  ext i hi
  interval_cases i <;> simp

@[simp] theorem fieldX_wordXK (op x : Nibble) (kk : Byte) : fieldX (wordXK op x kk) = x := by
  unfold fieldX wordXK
  ext i hi
  interval_cases i <;> simp

@[simp] theorem fieldKK_wordXK (op x : Nibble) (kk : Byte) : fieldKK (wordXK op x kk) = kk := by
  unfold fieldKK wordXK
  ext i hi
  interval_cases i <;> simp

@[simp] theorem fieldOp_wordXYN (op x y n : Nibble) : fieldOp (wordXYN op x y n) = op := by
  unfold fieldOp wordXYN
  ext i hi
  interval_cases i <;> simp

@[simp] theorem fieldX_wordXYN (op x y n : Nibble) : fieldX (wordXYN op x y n) = x := by
  unfold fieldX wordXYN
  ext i hi
  interval_cases i <;> simp

@[simp] theorem fieldY_wordXYN (op x y n : Nibble) : fieldY (wordXYN op x y n) = y := by
  unfold fieldY wordXYN
  ext i hi
  interval_cases i <;> simp

@[simp] theorem fieldN_wordXYN (op x y n : Nibble) : fieldN (wordXYN op x y n) = n := by
  unfold fieldN wordXYN
  ext i hi
  interval_cases i <;> simp

theorem wordA_fields (w : Word) : wordA (fieldOp w) (fieldNNN w) = w := by
  unfold wordA fieldOp fieldNNN
  ext i hi
  interval_cases i <;> simp

theorem wordXK_fields (w : Word) : wordXK (fieldOp w) (fieldX w) (fieldKK w) = w := by
  unfold wordXK fieldOp fieldX fieldKK
  ext i hi
  interval_cases i <;> simp

theorem wordXYN_fields (w : Word) : wordXYN (fieldOp w) (fieldX w) (fieldY w) (fieldN w) = w := by
  unfold wordXYN fieldOp fieldX fieldY fieldN
  ext i hi
  interval_cases i <;> simp

/-- A word stored as its two bytes is fetched as itself (20_memory.md R32). -/
@[simp] theorem wordOfBytes_bytes (w : Word) : wordOfBytes (highByte w) (lowByte w) = w := by
  unfold wordOfBytes highByte lowByte
  ext i hi
  interval_cases i <;> simp

end Sys2Proof
end

