-- ==== Sys2Proof/Laws/State.lean ====
section
/-! SUPPORT. One lemma per field per state update, true by rfl, so that no later proof unfolds a record update; then the
same for the two reads `State.reg` and `State.keyDown`. -/

namespace Sys2Proof.Machine

variable (s : State)

/-! ### `State.setReg` -/

@[simp] theorem State.setReg_v (x : Nibble) (b : Byte) : (s.setReg x b).v = s.v.set x.toNat b x.isLt := rfl
@[simp] theorem State.setReg_i (x : Nibble) (b : Byte) : (s.setReg x b).i = s.i := rfl
@[simp] theorem State.setReg_pc (x : Nibble) (b : Byte) : (s.setReg x b).pc = s.pc := rfl
@[simp] theorem State.setReg_stack (x : Nibble) (b : Byte) : (s.setReg x b).stack = s.stack := rfl
@[simp] theorem State.setReg_sp (x : Nibble) (b : Byte) : (s.setReg x b).sp = s.sp := rfl
@[simp] theorem State.setReg_dt (x : Nibble) (b : Byte) : (s.setReg x b).dt = s.dt := rfl
@[simp] theorem State.setReg_st (x : Nibble) (b : Byte) : (s.setReg x b).st = s.st := rfl
@[simp] theorem State.setReg_key (x : Nibble) (b : Byte) : (s.setReg x b).key = s.key := rfl
@[simp] theorem State.setReg_fb (x : Nibble) (b : Byte) : (s.setReg x b).fb = s.fb := rfl
@[simp] theorem State.setReg_dirty (x : Nibble) (b : Byte) : (s.setReg x b).dirty = s.dirty := rfl
@[simp] theorem State.setReg_status (x : Nibble) (b : Byte) : (s.setReg x b).status = s.status := rfl
@[simp] theorem State.setReg_faultCause (x : Nibble) (b : Byte) : (s.setReg x b).faultCause = s.faultCause := rfl
@[simp] theorem State.setReg_faultPc (x : Nibble) (b : Byte) : (s.setReg x b).faultPc = s.faultPc := rfl
@[simp] theorem State.setReg_faultInfo (x : Nibble) (b : Byte) : (s.setReg x b).faultInfo = s.faultInfo := rfl
@[simp] theorem State.setReg_unkCount (x : Nibble) (b : Byte) : (s.setReg x b).unkCount = s.unkCount := rfl
@[simp] theorem State.setReg_mem (x : Nibble) (b : Byte) : (s.setReg x b).mem = s.mem := rfl
@[simp] theorem State.setReg_draws (x : Nibble) (b : Byte) : (s.setReg x b).draws = s.draws := rfl

theorem State.setReg_reg (x r : Nibble) (b : Byte) : (s.setReg x b).reg r = if r = x then b else s.reg r := by
  unfold State.reg State.setReg
  by_cases h : r = x
  · subst h; simp
  · have hn : x.toNat ≠ r.toNat := fun e => h (BitVec.eq_of_toNat_eq e.symm)
    simp [h, hn]

@[simp] theorem State.setReg_reg_self (x : Nibble) (b : Byte) : (s.setReg x b).reg x = b := by
  simp [State.setReg_reg]

theorem State.setReg_reg_ne {x r : Nibble} (b : Byte) (h : r ≠ x) : (s.setReg x b).reg r = s.reg r := by
  simp [State.setReg_reg, h]
@[simp] theorem State.setReg_keyDown (x : Nibble) (b : Byte) (k : Nat) : (s.setReg x b).keyDown k = s.keyDown k := rfl

/-! ### `State.setRegs` -/

@[simp] theorem State.setRegs_v (v : Vector Byte 16) : (s.setRegs v).v = v := rfl
@[simp] theorem State.setRegs_i (v : Vector Byte 16) : (s.setRegs v).i = s.i := rfl
@[simp] theorem State.setRegs_pc (v : Vector Byte 16) : (s.setRegs v).pc = s.pc := rfl
@[simp] theorem State.setRegs_stack (v : Vector Byte 16) : (s.setRegs v).stack = s.stack := rfl
@[simp] theorem State.setRegs_sp (v : Vector Byte 16) : (s.setRegs v).sp = s.sp := rfl
@[simp] theorem State.setRegs_dt (v : Vector Byte 16) : (s.setRegs v).dt = s.dt := rfl
@[simp] theorem State.setRegs_st (v : Vector Byte 16) : (s.setRegs v).st = s.st := rfl
@[simp] theorem State.setRegs_key (v : Vector Byte 16) : (s.setRegs v).key = s.key := rfl
@[simp] theorem State.setRegs_fb (v : Vector Byte 16) : (s.setRegs v).fb = s.fb := rfl
@[simp] theorem State.setRegs_dirty (v : Vector Byte 16) : (s.setRegs v).dirty = s.dirty := rfl
@[simp] theorem State.setRegs_status (v : Vector Byte 16) : (s.setRegs v).status = s.status := rfl
@[simp] theorem State.setRegs_faultCause (v : Vector Byte 16) : (s.setRegs v).faultCause = s.faultCause := rfl
@[simp] theorem State.setRegs_faultPc (v : Vector Byte 16) : (s.setRegs v).faultPc = s.faultPc := rfl
@[simp] theorem State.setRegs_faultInfo (v : Vector Byte 16) : (s.setRegs v).faultInfo = s.faultInfo := rfl
@[simp] theorem State.setRegs_unkCount (v : Vector Byte 16) : (s.setRegs v).unkCount = s.unkCount := rfl
@[simp] theorem State.setRegs_mem (v : Vector Byte 16) : (s.setRegs v).mem = s.mem := rfl
@[simp] theorem State.setRegs_draws (v : Vector Byte 16) : (s.setRegs v).draws = s.draws := rfl
@[simp] theorem State.setRegs_keyDown (v : Vector Byte 16) (k : Nat) : (s.setRegs v).keyDown k = s.keyDown k := rfl

/-! ### `State.setI` -/

@[simp] theorem State.setI_v (a : Word) : (s.setI a).v = s.v := rfl
@[simp] theorem State.setI_i (a : Word) : (s.setI a).i = a := rfl
@[simp] theorem State.setI_pc (a : Word) : (s.setI a).pc = s.pc := rfl
@[simp] theorem State.setI_stack (a : Word) : (s.setI a).stack = s.stack := rfl
@[simp] theorem State.setI_sp (a : Word) : (s.setI a).sp = s.sp := rfl
@[simp] theorem State.setI_dt (a : Word) : (s.setI a).dt = s.dt := rfl
@[simp] theorem State.setI_st (a : Word) : (s.setI a).st = s.st := rfl
@[simp] theorem State.setI_key (a : Word) : (s.setI a).key = s.key := rfl
@[simp] theorem State.setI_fb (a : Word) : (s.setI a).fb = s.fb := rfl
@[simp] theorem State.setI_dirty (a : Word) : (s.setI a).dirty = s.dirty := rfl
@[simp] theorem State.setI_status (a : Word) : (s.setI a).status = s.status := rfl
@[simp] theorem State.setI_faultCause (a : Word) : (s.setI a).faultCause = s.faultCause := rfl
@[simp] theorem State.setI_faultPc (a : Word) : (s.setI a).faultPc = s.faultPc := rfl
@[simp] theorem State.setI_faultInfo (a : Word) : (s.setI a).faultInfo = s.faultInfo := rfl
@[simp] theorem State.setI_unkCount (a : Word) : (s.setI a).unkCount = s.unkCount := rfl
@[simp] theorem State.setI_mem (a : Word) : (s.setI a).mem = s.mem := rfl
@[simp] theorem State.setI_draws (a : Word) : (s.setI a).draws = s.draws := rfl
@[simp] theorem State.setI_reg (a : Word) (r : Nibble) : (s.setI a).reg r = s.reg r := rfl
@[simp] theorem State.setI_keyDown (a : Word) (k : Nat) : (s.setI a).keyDown k = s.keyDown k := rfl

/-! ### `State.setDt` -/

@[simp] theorem State.setDt_v (b : Byte) : (s.setDt b).v = s.v := rfl
@[simp] theorem State.setDt_i (b : Byte) : (s.setDt b).i = s.i := rfl
@[simp] theorem State.setDt_pc (b : Byte) : (s.setDt b).pc = s.pc := rfl
@[simp] theorem State.setDt_stack (b : Byte) : (s.setDt b).stack = s.stack := rfl
@[simp] theorem State.setDt_sp (b : Byte) : (s.setDt b).sp = s.sp := rfl
@[simp] theorem State.setDt_dt (b : Byte) : (s.setDt b).dt = b := rfl
@[simp] theorem State.setDt_st (b : Byte) : (s.setDt b).st = s.st := rfl
@[simp] theorem State.setDt_key (b : Byte) : (s.setDt b).key = s.key := rfl
@[simp] theorem State.setDt_fb (b : Byte) : (s.setDt b).fb = s.fb := rfl
@[simp] theorem State.setDt_dirty (b : Byte) : (s.setDt b).dirty = s.dirty := rfl
@[simp] theorem State.setDt_status (b : Byte) : (s.setDt b).status = s.status := rfl
@[simp] theorem State.setDt_faultCause (b : Byte) : (s.setDt b).faultCause = s.faultCause := rfl
@[simp] theorem State.setDt_faultPc (b : Byte) : (s.setDt b).faultPc = s.faultPc := rfl
@[simp] theorem State.setDt_faultInfo (b : Byte) : (s.setDt b).faultInfo = s.faultInfo := rfl
@[simp] theorem State.setDt_unkCount (b : Byte) : (s.setDt b).unkCount = s.unkCount := rfl
@[simp] theorem State.setDt_mem (b : Byte) : (s.setDt b).mem = s.mem := rfl
@[simp] theorem State.setDt_draws (b : Byte) : (s.setDt b).draws = s.draws := rfl
@[simp] theorem State.setDt_reg (b : Byte) (r : Nibble) : (s.setDt b).reg r = s.reg r := rfl
@[simp] theorem State.setDt_keyDown (b : Byte) (k : Nat) : (s.setDt b).keyDown k = s.keyDown k := rfl

/-! ### `State.setSt` -/

@[simp] theorem State.setSt_v (b : Byte) : (s.setSt b).v = s.v := rfl
@[simp] theorem State.setSt_i (b : Byte) : (s.setSt b).i = s.i := rfl
@[simp] theorem State.setSt_pc (b : Byte) : (s.setSt b).pc = s.pc := rfl
@[simp] theorem State.setSt_stack (b : Byte) : (s.setSt b).stack = s.stack := rfl
@[simp] theorem State.setSt_sp (b : Byte) : (s.setSt b).sp = s.sp := rfl
@[simp] theorem State.setSt_dt (b : Byte) : (s.setSt b).dt = s.dt := rfl
@[simp] theorem State.setSt_st (b : Byte) : (s.setSt b).st = b := rfl
@[simp] theorem State.setSt_key (b : Byte) : (s.setSt b).key = s.key := rfl
@[simp] theorem State.setSt_fb (b : Byte) : (s.setSt b).fb = s.fb := rfl
@[simp] theorem State.setSt_dirty (b : Byte) : (s.setSt b).dirty = s.dirty := rfl
@[simp] theorem State.setSt_status (b : Byte) : (s.setSt b).status = s.status := rfl
@[simp] theorem State.setSt_faultCause (b : Byte) : (s.setSt b).faultCause = s.faultCause := rfl
@[simp] theorem State.setSt_faultPc (b : Byte) : (s.setSt b).faultPc = s.faultPc := rfl
@[simp] theorem State.setSt_faultInfo (b : Byte) : (s.setSt b).faultInfo = s.faultInfo := rfl
@[simp] theorem State.setSt_unkCount (b : Byte) : (s.setSt b).unkCount = s.unkCount := rfl
@[simp] theorem State.setSt_mem (b : Byte) : (s.setSt b).mem = s.mem := rfl
@[simp] theorem State.setSt_draws (b : Byte) : (s.setSt b).draws = s.draws := rfl
@[simp] theorem State.setSt_reg (b : Byte) (r : Nibble) : (s.setSt b).reg r = s.reg r := rfl
@[simp] theorem State.setSt_keyDown (b : Byte) (k : Nat) : (s.setSt b).keyDown k = s.keyDown k := rfl

/-! ### `State.setMem` -/

@[simp] theorem State.setMem_v (m : Memory) : (s.setMem m).v = s.v := rfl
@[simp] theorem State.setMem_i (m : Memory) : (s.setMem m).i = s.i := rfl
@[simp] theorem State.setMem_pc (m : Memory) : (s.setMem m).pc = s.pc := rfl
@[simp] theorem State.setMem_stack (m : Memory) : (s.setMem m).stack = s.stack := rfl
@[simp] theorem State.setMem_sp (m : Memory) : (s.setMem m).sp = s.sp := rfl
@[simp] theorem State.setMem_dt (m : Memory) : (s.setMem m).dt = s.dt := rfl
@[simp] theorem State.setMem_st (m : Memory) : (s.setMem m).st = s.st := rfl
@[simp] theorem State.setMem_key (m : Memory) : (s.setMem m).key = s.key := rfl
@[simp] theorem State.setMem_fb (m : Memory) : (s.setMem m).fb = s.fb := rfl
@[simp] theorem State.setMem_dirty (m : Memory) : (s.setMem m).dirty = s.dirty := rfl
@[simp] theorem State.setMem_status (m : Memory) : (s.setMem m).status = s.status := rfl
@[simp] theorem State.setMem_faultCause (m : Memory) : (s.setMem m).faultCause = s.faultCause := rfl
@[simp] theorem State.setMem_faultPc (m : Memory) : (s.setMem m).faultPc = s.faultPc := rfl
@[simp] theorem State.setMem_faultInfo (m : Memory) : (s.setMem m).faultInfo = s.faultInfo := rfl
@[simp] theorem State.setMem_unkCount (m : Memory) : (s.setMem m).unkCount = s.unkCount := rfl
@[simp] theorem State.setMem_mem (m : Memory) : (s.setMem m).mem = m := rfl
@[simp] theorem State.setMem_draws (m : Memory) : (s.setMem m).draws = s.draws := rfl
@[simp] theorem State.setMem_reg (m : Memory) (r : Nibble) : (s.setMem m).reg r = s.reg r := rfl
@[simp] theorem State.setMem_keyDown (m : Memory) (k : Nat) : (s.setMem m).keyDown k = s.keyDown k := rfl

/-! ### `State.paint` -/

@[simp] theorem State.paint_v (fb : Framebuffer) : (s.paint fb).v = s.v := rfl
@[simp] theorem State.paint_i (fb : Framebuffer) : (s.paint fb).i = s.i := rfl
@[simp] theorem State.paint_pc (fb : Framebuffer) : (s.paint fb).pc = s.pc := rfl
@[simp] theorem State.paint_stack (fb : Framebuffer) : (s.paint fb).stack = s.stack := rfl
@[simp] theorem State.paint_sp (fb : Framebuffer) : (s.paint fb).sp = s.sp := rfl
@[simp] theorem State.paint_dt (fb : Framebuffer) : (s.paint fb).dt = s.dt := rfl
@[simp] theorem State.paint_st (fb : Framebuffer) : (s.paint fb).st = s.st := rfl
@[simp] theorem State.paint_key (fb : Framebuffer) : (s.paint fb).key = s.key := rfl
@[simp] theorem State.paint_fb (fb : Framebuffer) : (s.paint fb).fb = fb := rfl
@[simp] theorem State.paint_dirty (fb : Framebuffer) : (s.paint fb).dirty = true := rfl
@[simp] theorem State.paint_status (fb : Framebuffer) : (s.paint fb).status = s.status := rfl
@[simp] theorem State.paint_faultCause (fb : Framebuffer) : (s.paint fb).faultCause = s.faultCause := rfl
@[simp] theorem State.paint_faultPc (fb : Framebuffer) : (s.paint fb).faultPc = s.faultPc := rfl
@[simp] theorem State.paint_faultInfo (fb : Framebuffer) : (s.paint fb).faultInfo = s.faultInfo := rfl
@[simp] theorem State.paint_unkCount (fb : Framebuffer) : (s.paint fb).unkCount = s.unkCount := rfl
@[simp] theorem State.paint_mem (fb : Framebuffer) : (s.paint fb).mem = s.mem := rfl
@[simp] theorem State.paint_draws (fb : Framebuffer) : (s.paint fb).draws = s.draws := rfl
@[simp] theorem State.paint_reg (fb : Framebuffer) (r : Nibble) : (s.paint fb).reg r = s.reg r := rfl
@[simp] theorem State.paint_keyDown (fb : Framebuffer) (k : Nat) : (s.paint fb).keyDown k = s.keyDown k := rfl

/-! ### `State.countUnknown` -/

@[simp] theorem State.countUnknown_v : s.countUnknown.v = s.v := rfl
@[simp] theorem State.countUnknown_i : s.countUnknown.i = s.i := rfl
@[simp] theorem State.countUnknown_pc : s.countUnknown.pc = s.pc := rfl
@[simp] theorem State.countUnknown_stack : s.countUnknown.stack = s.stack := rfl
@[simp] theorem State.countUnknown_sp : s.countUnknown.sp = s.sp := rfl
@[simp] theorem State.countUnknown_dt : s.countUnknown.dt = s.dt := rfl
@[simp] theorem State.countUnknown_st : s.countUnknown.st = s.st := rfl
@[simp] theorem State.countUnknown_key : s.countUnknown.key = s.key := rfl
@[simp] theorem State.countUnknown_fb : s.countUnknown.fb = s.fb := rfl
@[simp] theorem State.countUnknown_dirty : s.countUnknown.dirty = s.dirty := rfl
@[simp] theorem State.countUnknown_status : s.countUnknown.status = s.status := rfl
@[simp] theorem State.countUnknown_faultCause : s.countUnknown.faultCause = s.faultCause := rfl
@[simp] theorem State.countUnknown_faultPc : s.countUnknown.faultPc = s.faultPc := rfl
@[simp] theorem State.countUnknown_faultInfo : s.countUnknown.faultInfo = s.faultInfo := rfl
@[simp] theorem State.countUnknown_unkCount : s.countUnknown.unkCount = s.unkCount + 1 := rfl
@[simp] theorem State.countUnknown_mem : s.countUnknown.mem = s.mem := rfl
@[simp] theorem State.countUnknown_draws : s.countUnknown.draws = s.draws := rfl
@[simp] theorem State.countUnknown_reg (r : Nibble) : s.countUnknown.reg r = s.reg r := rfl
@[simp] theorem State.countUnknown_keyDown (k : Nat) : s.countUnknown.keyDown k = s.keyDown k := rfl

/-! ### `State.takeDraw` -/

@[simp] theorem State.takeDraw_v : s.takeDraw.v = s.v := rfl
@[simp] theorem State.takeDraw_i : s.takeDraw.i = s.i := rfl
@[simp] theorem State.takeDraw_pc : s.takeDraw.pc = s.pc := rfl
@[simp] theorem State.takeDraw_stack : s.takeDraw.stack = s.stack := rfl
@[simp] theorem State.takeDraw_sp : s.takeDraw.sp = s.sp := rfl
@[simp] theorem State.takeDraw_dt : s.takeDraw.dt = s.dt := rfl
@[simp] theorem State.takeDraw_st : s.takeDraw.st = s.st := rfl
@[simp] theorem State.takeDraw_key : s.takeDraw.key = s.key := rfl
@[simp] theorem State.takeDraw_fb : s.takeDraw.fb = s.fb := rfl
@[simp] theorem State.takeDraw_dirty : s.takeDraw.dirty = s.dirty := rfl
@[simp] theorem State.takeDraw_status : s.takeDraw.status = s.status := rfl
@[simp] theorem State.takeDraw_faultCause : s.takeDraw.faultCause = s.faultCause := rfl
@[simp] theorem State.takeDraw_faultPc : s.takeDraw.faultPc = s.faultPc := rfl
@[simp] theorem State.takeDraw_faultInfo : s.takeDraw.faultInfo = s.faultInfo := rfl
@[simp] theorem State.takeDraw_unkCount : s.takeDraw.unkCount = s.unkCount := rfl
@[simp] theorem State.takeDraw_mem : s.takeDraw.mem = s.mem := rfl
@[simp] theorem State.takeDraw_draws : s.takeDraw.draws = s.draws + 1 := rfl
@[simp] theorem State.takeDraw_reg (r : Nibble) : s.takeDraw.reg r = s.reg r := rfl
@[simp] theorem State.takeDraw_keyDown (k : Nat) : s.takeDraw.keyDown k = s.keyDown k := rfl

/-! ### `State.goTo` -/

@[simp] theorem State.goTo_v (target : Word) : (s.goTo target).v = s.v := rfl
@[simp] theorem State.goTo_i (target : Word) : (s.goTo target).i = s.i := rfl
@[simp] theorem State.goTo_pc (target : Word) : (s.goTo target).pc = target := rfl
@[simp] theorem State.goTo_stack (target : Word) : (s.goTo target).stack = s.stack := rfl
@[simp] theorem State.goTo_sp (target : Word) : (s.goTo target).sp = s.sp := rfl
@[simp] theorem State.goTo_dt (target : Word) : (s.goTo target).dt = s.dt := rfl
@[simp] theorem State.goTo_st (target : Word) : (s.goTo target).st = s.st := rfl
@[simp] theorem State.goTo_key (target : Word) : (s.goTo target).key = s.key := rfl
@[simp] theorem State.goTo_fb (target : Word) : (s.goTo target).fb = s.fb := rfl
@[simp] theorem State.goTo_dirty (target : Word) : (s.goTo target).dirty = s.dirty := rfl
@[simp] theorem State.goTo_status (target : Word) : (s.goTo target).status = .running := rfl
@[simp] theorem State.goTo_faultCause (target : Word) : (s.goTo target).faultCause = s.faultCause := rfl
@[simp] theorem State.goTo_faultPc (target : Word) : (s.goTo target).faultPc = s.faultPc := rfl
@[simp] theorem State.goTo_faultInfo (target : Word) : (s.goTo target).faultInfo = s.faultInfo := rfl
@[simp] theorem State.goTo_unkCount (target : Word) : (s.goTo target).unkCount = s.unkCount := rfl
@[simp] theorem State.goTo_mem (target : Word) : (s.goTo target).mem = s.mem := rfl
@[simp] theorem State.goTo_draws (target : Word) : (s.goTo target).draws = s.draws := rfl
@[simp] theorem State.goTo_reg (target : Word) (r : Nibble) : (s.goTo target).reg r = s.reg r := rfl
@[simp] theorem State.goTo_keyDown (target : Word) (k : Nat) : (s.goTo target).keyDown k = s.keyDown k := rfl

/-! ### `State.advance` -/

@[simp] theorem State.advance_v : s.advance.v = s.v := rfl
@[simp] theorem State.advance_i : s.advance.i = s.i := rfl
@[simp] theorem State.advance_pc : s.advance.pc = s.pc + 2#16 := rfl
@[simp] theorem State.advance_stack : s.advance.stack = s.stack := rfl
@[simp] theorem State.advance_sp : s.advance.sp = s.sp := rfl
@[simp] theorem State.advance_dt : s.advance.dt = s.dt := rfl
@[simp] theorem State.advance_st : s.advance.st = s.st := rfl
@[simp] theorem State.advance_key : s.advance.key = s.key := rfl
@[simp] theorem State.advance_fb : s.advance.fb = s.fb := rfl
@[simp] theorem State.advance_dirty : s.advance.dirty = s.dirty := rfl
@[simp] theorem State.advance_status : s.advance.status = .running := rfl
@[simp] theorem State.advance_faultCause : s.advance.faultCause = s.faultCause := rfl
@[simp] theorem State.advance_faultPc : s.advance.faultPc = s.faultPc := rfl
@[simp] theorem State.advance_faultInfo : s.advance.faultInfo = s.faultInfo := rfl
@[simp] theorem State.advance_unkCount : s.advance.unkCount = s.unkCount := rfl
@[simp] theorem State.advance_mem : s.advance.mem = s.mem := rfl
@[simp] theorem State.advance_draws : s.advance.draws = s.draws := rfl
@[simp] theorem State.advance_reg (r : Nibble) : s.advance.reg r = s.reg r := rfl
@[simp] theorem State.advance_keyDown (k : Nat) : s.advance.keyDown k = s.keyDown k := rfl

/-! ### `State.block` -/

@[simp] theorem State.block_v : s.block.v = s.v := rfl
@[simp] theorem State.block_i : s.block.i = s.i := rfl
@[simp] theorem State.block_pc : s.block.pc = s.pc := rfl
@[simp] theorem State.block_stack : s.block.stack = s.stack := rfl
@[simp] theorem State.block_sp : s.block.sp = s.sp := rfl
@[simp] theorem State.block_dt : s.block.dt = s.dt := rfl
@[simp] theorem State.block_st : s.block.st = s.st := rfl
@[simp] theorem State.block_key : s.block.key = s.key := rfl
@[simp] theorem State.block_fb : s.block.fb = s.fb := rfl
@[simp] theorem State.block_dirty : s.block.dirty = s.dirty := rfl
@[simp] theorem State.block_status : s.block.status = .blockedOnKey := rfl
@[simp] theorem State.block_faultCause : s.block.faultCause = s.faultCause := rfl
@[simp] theorem State.block_faultPc : s.block.faultPc = s.faultPc := rfl
@[simp] theorem State.block_faultInfo : s.block.faultInfo = s.faultInfo := rfl
@[simp] theorem State.block_unkCount : s.block.unkCount = s.unkCount := rfl
@[simp] theorem State.block_mem : s.block.mem = s.mem := rfl
@[simp] theorem State.block_draws : s.block.draws = s.draws := rfl
@[simp] theorem State.block_reg (r : Nibble) : s.block.reg r = s.reg r := rfl
@[simp] theorem State.block_keyDown (k : Nat) : s.block.keyDown k = s.keyDown k := rfl

/-! ### `State.raiseFault` -/

@[simp] theorem State.raiseFault_v (cause : FaultCause) (info : Word) : (s.raiseFault cause info).v = s.v := rfl
@[simp] theorem State.raiseFault_i (cause : FaultCause) (info : Word) : (s.raiseFault cause info).i = s.i := rfl
@[simp] theorem State.raiseFault_pc (cause : FaultCause) (info : Word) : (s.raiseFault cause info).pc = s.pc := rfl
@[simp] theorem State.raiseFault_stack (cause : FaultCause) (info : Word) : (s.raiseFault cause info).stack = s.stack := rfl
@[simp] theorem State.raiseFault_sp (cause : FaultCause) (info : Word) : (s.raiseFault cause info).sp = s.sp := rfl
@[simp] theorem State.raiseFault_dt (cause : FaultCause) (info : Word) : (s.raiseFault cause info).dt = s.dt := rfl
@[simp] theorem State.raiseFault_st (cause : FaultCause) (info : Word) : (s.raiseFault cause info).st = s.st := rfl
@[simp] theorem State.raiseFault_key (cause : FaultCause) (info : Word) : (s.raiseFault cause info).key = s.key := rfl
@[simp] theorem State.raiseFault_fb (cause : FaultCause) (info : Word) : (s.raiseFault cause info).fb = s.fb := rfl
@[simp] theorem State.raiseFault_dirty (cause : FaultCause) (info : Word) : (s.raiseFault cause info).dirty = s.dirty := rfl
@[simp] theorem State.raiseFault_status (cause : FaultCause) (info : Word) : (s.raiseFault cause info).status = .halted := rfl
@[simp] theorem State.raiseFault_faultCause (cause : FaultCause) (info : Word) : (s.raiseFault cause info).faultCause = cause := rfl
@[simp] theorem State.raiseFault_faultPc (cause : FaultCause) (info : Word) : (s.raiseFault cause info).faultPc = s.pc := rfl
@[simp] theorem State.raiseFault_faultInfo (cause : FaultCause) (info : Word) : (s.raiseFault cause info).faultInfo = info := rfl
@[simp] theorem State.raiseFault_unkCount (cause : FaultCause) (info : Word) : (s.raiseFault cause info).unkCount = s.unkCount := rfl
@[simp] theorem State.raiseFault_mem (cause : FaultCause) (info : Word) : (s.raiseFault cause info).mem = s.mem := rfl
@[simp] theorem State.raiseFault_draws (cause : FaultCause) (info : Word) : (s.raiseFault cause info).draws = s.draws := rfl
@[simp] theorem State.raiseFault_reg (cause : FaultCause) (info : Word) (r : Nibble) : (s.raiseFault cause info).reg r = s.reg r := rfl
@[simp] theorem State.raiseFault_keyDown (cause : FaultCause) (info : Word) (k : Nat) : (s.raiseFault cause info).keyDown k = s.keyDown k := rfl

/-! ### `State.skipIf` -/

@[simp] theorem State.skipIf_v (c : Bool) : (s.skipIf c).v = s.v := by cases c <;> rfl
@[simp] theorem State.skipIf_i (c : Bool) : (s.skipIf c).i = s.i := by cases c <;> rfl
theorem State.skipIf_pc (c : Bool) : (s.skipIf c).pc = if c then s.pc + 4#16 else s.pc + 2#16 := by
  cases c <;> rfl
@[simp] theorem State.skipIf_stack (c : Bool) : (s.skipIf c).stack = s.stack := by cases c <;> rfl
@[simp] theorem State.skipIf_sp (c : Bool) : (s.skipIf c).sp = s.sp := by cases c <;> rfl
@[simp] theorem State.skipIf_dt (c : Bool) : (s.skipIf c).dt = s.dt := by cases c <;> rfl
@[simp] theorem State.skipIf_st (c : Bool) : (s.skipIf c).st = s.st := by cases c <;> rfl
@[simp] theorem State.skipIf_key (c : Bool) : (s.skipIf c).key = s.key := by cases c <;> rfl
@[simp] theorem State.skipIf_fb (c : Bool) : (s.skipIf c).fb = s.fb := by cases c <;> rfl
@[simp] theorem State.skipIf_dirty (c : Bool) : (s.skipIf c).dirty = s.dirty := by cases c <;> rfl
@[simp] theorem State.skipIf_status (c : Bool) : (s.skipIf c).status = .running := by cases c <;> rfl
@[simp] theorem State.skipIf_faultCause (c : Bool) : (s.skipIf c).faultCause = s.faultCause := by cases c <;> rfl
@[simp] theorem State.skipIf_faultPc (c : Bool) : (s.skipIf c).faultPc = s.faultPc := by cases c <;> rfl
@[simp] theorem State.skipIf_faultInfo (c : Bool) : (s.skipIf c).faultInfo = s.faultInfo := by cases c <;> rfl
@[simp] theorem State.skipIf_unkCount (c : Bool) : (s.skipIf c).unkCount = s.unkCount := by cases c <;> rfl
@[simp] theorem State.skipIf_mem (c : Bool) : (s.skipIf c).mem = s.mem := by cases c <;> rfl
@[simp] theorem State.skipIf_draws (c : Bool) : (s.skipIf c).draws = s.draws := by cases c <;> rfl
@[simp] theorem State.skipIf_reg (c : Bool) (r : Nibble) : (s.skipIf c).reg r = s.reg r := by cases c <;> rfl

/-! ### `State.setFlag` and `State.setRegFlag`: two register writes -/

@[simp] theorem State.setFlag_i (b : Bool) : (s.setFlag b).i = s.i := rfl
@[simp] theorem State.setFlag_pc (b : Bool) : (s.setFlag b).pc = s.pc := rfl
@[simp] theorem State.setFlag_stack (b : Bool) : (s.setFlag b).stack = s.stack := rfl
@[simp] theorem State.setFlag_sp (b : Bool) : (s.setFlag b).sp = s.sp := rfl
@[simp] theorem State.setFlag_dt (b : Bool) : (s.setFlag b).dt = s.dt := rfl
@[simp] theorem State.setFlag_st (b : Bool) : (s.setFlag b).st = s.st := rfl
@[simp] theorem State.setFlag_key (b : Bool) : (s.setFlag b).key = s.key := rfl
@[simp] theorem State.setFlag_fb (b : Bool) : (s.setFlag b).fb = s.fb := rfl
@[simp] theorem State.setFlag_dirty (b : Bool) : (s.setFlag b).dirty = s.dirty := rfl
@[simp] theorem State.setFlag_status (b : Bool) : (s.setFlag b).status = s.status := rfl
@[simp] theorem State.setFlag_faultCause (b : Bool) : (s.setFlag b).faultCause = s.faultCause := rfl
@[simp] theorem State.setFlag_faultPc (b : Bool) : (s.setFlag b).faultPc = s.faultPc := rfl
@[simp] theorem State.setFlag_faultInfo (b : Bool) : (s.setFlag b).faultInfo = s.faultInfo := rfl
@[simp] theorem State.setFlag_unkCount (b : Bool) : (s.setFlag b).unkCount = s.unkCount := rfl
@[simp] theorem State.setFlag_mem (b : Bool) : (s.setFlag b).mem = s.mem := rfl
@[simp] theorem State.setFlag_draws (b : Bool) : (s.setFlag b).draws = s.draws := rfl

theorem State.setFlag_reg (b : Bool) (r : Nibble) :
    (s.setFlag b).reg r = if r = regVF then flagByte b else s.reg r := State.setReg_reg s regVF r (flagByte b)

@[simp] theorem State.setRegFlag_i (x : Nibble) (a : Byte) (b : Bool) : (s.setRegFlag x a b).i = s.i := rfl
@[simp] theorem State.setRegFlag_pc (x : Nibble) (a : Byte) (b : Bool) : (s.setRegFlag x a b).pc = s.pc := rfl
@[simp] theorem State.setRegFlag_stack (x : Nibble) (a : Byte) (b : Bool) : (s.setRegFlag x a b).stack = s.stack := rfl
@[simp] theorem State.setRegFlag_sp (x : Nibble) (a : Byte) (b : Bool) : (s.setRegFlag x a b).sp = s.sp := rfl
@[simp] theorem State.setRegFlag_dt (x : Nibble) (a : Byte) (b : Bool) : (s.setRegFlag x a b).dt = s.dt := rfl
@[simp] theorem State.setRegFlag_st (x : Nibble) (a : Byte) (b : Bool) : (s.setRegFlag x a b).st = s.st := rfl
@[simp] theorem State.setRegFlag_key (x : Nibble) (a : Byte) (b : Bool) : (s.setRegFlag x a b).key = s.key := rfl
@[simp] theorem State.setRegFlag_fb (x : Nibble) (a : Byte) (b : Bool) : (s.setRegFlag x a b).fb = s.fb := rfl
@[simp] theorem State.setRegFlag_dirty (x : Nibble) (a : Byte) (b : Bool) : (s.setRegFlag x a b).dirty = s.dirty := rfl
@[simp] theorem State.setRegFlag_status (x : Nibble) (a : Byte) (b : Bool) : (s.setRegFlag x a b).status = s.status := rfl
@[simp] theorem State.setRegFlag_faultCause (x : Nibble) (a : Byte) (b : Bool) : (s.setRegFlag x a b).faultCause = s.faultCause := rfl
@[simp] theorem State.setRegFlag_faultPc (x : Nibble) (a : Byte) (b : Bool) : (s.setRegFlag x a b).faultPc = s.faultPc := rfl
@[simp] theorem State.setRegFlag_faultInfo (x : Nibble) (a : Byte) (b : Bool) : (s.setRegFlag x a b).faultInfo = s.faultInfo := rfl
@[simp] theorem State.setRegFlag_unkCount (x : Nibble) (a : Byte) (b : Bool) : (s.setRegFlag x a b).unkCount = s.unkCount := rfl
@[simp] theorem State.setRegFlag_mem (x : Nibble) (a : Byte) (b : Bool) : (s.setRegFlag x a b).mem = s.mem := rfl
@[simp] theorem State.setRegFlag_draws (x : Nibble) (a : Byte) (b : Bool) : (s.setRegFlag x a b).draws = s.draws := rfl

/-- R70: the flag is the last write, so register 15 ends as the flag whatever x is. -/
theorem State.setRegFlag_reg (x r : Nibble) (a : Byte) (b : Bool) :
    (s.setRegFlag x a b).reg r = if r = regVF then flagByte b else if r = x then a else s.reg r := by
  unfold State.setRegFlag
  rw [State.setFlag_reg, State.setReg_reg]

/-! ### The other agents' steps -/

@[simp] theorem tick_v : (tick s).v = s.v := rfl
@[simp] theorem tick_i : (tick s).i = s.i := rfl
@[simp] theorem tick_pc : (tick s).pc = s.pc := rfl
@[simp] theorem tick_stack : (tick s).stack = s.stack := rfl
@[simp] theorem tick_sp : (tick s).sp = s.sp := rfl
@[simp] theorem tick_dt : (tick s).dt = if 0 < s.dt.toNat then s.dt - 1#8 else s.dt := rfl
@[simp] theorem tick_st : (tick s).st = if 0 < s.st.toNat then s.st - 1#8 else s.st := rfl
@[simp] theorem tick_key : (tick s).key = s.key := rfl
@[simp] theorem tick_fb : (tick s).fb = s.fb := rfl
@[simp] theorem tick_dirty : (tick s).dirty = s.dirty := rfl
@[simp] theorem tick_status : (tick s).status = s.status := rfl
@[simp] theorem tick_faultCause : (tick s).faultCause = s.faultCause := rfl
@[simp] theorem tick_faultPc : (tick s).faultPc = s.faultPc := rfl
@[simp] theorem tick_faultInfo : (tick s).faultInfo = s.faultInfo := rfl
@[simp] theorem tick_unkCount : (tick s).unkCount = s.unkCount := rfl
@[simp] theorem tick_mem : (tick s).mem = s.mem := rfl
@[simp] theorem tick_draws : (tick s).draws = s.draws := rfl
@[simp] theorem tick_reg (r : Nibble) : (tick s).reg r = s.reg r := rfl

@[simp] theorem setKeys_v (k : BitVec 16) : (setKeys k s).v = s.v := rfl
@[simp] theorem setKeys_i (k : BitVec 16) : (setKeys k s).i = s.i := rfl
@[simp] theorem setKeys_pc (k : BitVec 16) : (setKeys k s).pc = s.pc := rfl
@[simp] theorem setKeys_stack (k : BitVec 16) : (setKeys k s).stack = s.stack := rfl
@[simp] theorem setKeys_sp (k : BitVec 16) : (setKeys k s).sp = s.sp := rfl
@[simp] theorem setKeys_dt (k : BitVec 16) : (setKeys k s).dt = s.dt := rfl
@[simp] theorem setKeys_st (k : BitVec 16) : (setKeys k s).st = s.st := rfl
@[simp] theorem setKeys_key (k : BitVec 16) : (setKeys k s).key = k := rfl
@[simp] theorem setKeys_fb (k : BitVec 16) : (setKeys k s).fb = s.fb := rfl
@[simp] theorem setKeys_dirty (k : BitVec 16) : (setKeys k s).dirty = s.dirty := rfl
@[simp] theorem setKeys_status (k : BitVec 16) : (setKeys k s).status = s.status := rfl
@[simp] theorem setKeys_faultCause (k : BitVec 16) : (setKeys k s).faultCause = s.faultCause := rfl
@[simp] theorem setKeys_faultPc (k : BitVec 16) : (setKeys k s).faultPc = s.faultPc := rfl
@[simp] theorem setKeys_faultInfo (k : BitVec 16) : (setKeys k s).faultInfo = s.faultInfo := rfl
@[simp] theorem setKeys_unkCount (k : BitVec 16) : (setKeys k s).unkCount = s.unkCount := rfl
@[simp] theorem setKeys_mem (k : BitVec 16) : (setKeys k s).mem = s.mem := rfl
@[simp] theorem setKeys_draws (k : BitVec 16) : (setKeys k s).draws = s.draws := rfl
@[simp] theorem setKeys_reg (k : BitVec 16) (r : Nibble) : (setKeys k s).reg r = s.reg r := rfl

@[simp] theorem ackDirty_v : (ackDirty s).v = s.v := rfl
@[simp] theorem ackDirty_i : (ackDirty s).i = s.i := rfl
@[simp] theorem ackDirty_pc : (ackDirty s).pc = s.pc := rfl
@[simp] theorem ackDirty_stack : (ackDirty s).stack = s.stack := rfl
@[simp] theorem ackDirty_sp : (ackDirty s).sp = s.sp := rfl
@[simp] theorem ackDirty_dt : (ackDirty s).dt = s.dt := rfl
@[simp] theorem ackDirty_st : (ackDirty s).st = s.st := rfl
@[simp] theorem ackDirty_key : (ackDirty s).key = s.key := rfl
@[simp] theorem ackDirty_fb : (ackDirty s).fb = s.fb := rfl
@[simp] theorem ackDirty_dirty : (ackDirty s).dirty = false := rfl
@[simp] theorem ackDirty_status : (ackDirty s).status = s.status := rfl
@[simp] theorem ackDirty_faultCause : (ackDirty s).faultCause = s.faultCause := rfl
@[simp] theorem ackDirty_faultPc : (ackDirty s).faultPc = s.faultPc := rfl
@[simp] theorem ackDirty_faultInfo : (ackDirty s).faultInfo = s.faultInfo := rfl
@[simp] theorem ackDirty_unkCount : (ackDirty s).unkCount = s.unkCount := rfl
@[simp] theorem ackDirty_mem : (ackDirty s).mem = s.mem := rfl
@[simp] theorem ackDirty_draws : (ackDirty s).draws = s.draws := rfl
@[simp] theorem ackDirty_reg (r : Nibble) : (ackDirty s).reg r = s.reg r := rfl

/-! ### The operand forms that read a register -/

@[simp] theorem hexIndex_of_le {b : Byte} (h : b.toNat ≤ 0x0F) : hexIndex b = some b.toNat := by simp [hexIndex, h]

@[simp] theorem hexIndex_of_lt {b : Byte} (h : 0x0F < b.toNat) : hexIndex b = none := by
  simp [hexIndex, Nat.not_le.mpr h]

theorem byteWord_toNat (b : Byte) : (byteWord b).toNat = b.toNat := by
  have := b.isLt
  simp only [byteWord, BitVec.toNat_setWidth]
  omega

theorem addrWord_toNat (nnn : Addr) : (addrWord nnn).toNat = nnn.toNat := by
  have := nnn.isLt
  simp only [addrWord, BitVec.toNat_setWidth]
  omega

end Sys2Proof.Machine
end

