-- ==== Sys2Proof/Laws/Ops.lean ====
section
/-! SUPPORT. One lemma per shared operation that says all it can do: the stack, the runs of registers and digits, the
lowest key, the flag byte. -/

namespace Sys2Proof.Machine

variable (s : State)

/-! ### The stack (10_state.md R15) -/

/-- Push: refused exactly when sixteen addresses are held; else the slot `SP` is written and SP counts up. -/
theorem State.push_cases (w : Word) :
    (s.sp.val = 16 ∧ s.push w = none) ∨
      ∃ h : s.sp.val < 16, s.push w =
        some { s with stack := s.stack.set s.sp.val w h, sp := ⟨s.sp.val + 1, by omega⟩ } := by
  by_cases h : s.sp.val < 16
  · exact .inr ⟨h, dif_pos h⟩
  · exact .inl ⟨by omega, dif_neg h⟩

/-- Pop: refused exactly when none is held; else the slot `SP - 1` is given and SP counts down. -/
theorem State.pop_cases :
    (s.sp.val = 0 ∧ s.pop = none) ∨
      ∃ h : 0 < s.sp.val, s.pop =
        some (s.stack[s.sp.val - 1]'(by omega), { s with sp := ⟨s.sp.val - 1, by omega⟩ }) := by
  by_cases h : 0 < s.sp.val
  · exact .inr ⟨h, dif_pos h⟩
  · exact .inl ⟨by omega, dif_neg h⟩

theorem State.spInfo_toNat : s.spInfo.toNat = s.sp.val := by
  have := s.sp.isLt
  simp only [State.spInfo, BitVec.toNat_ofNat]
  omega

/-! ### Runs of registers and of digits -/

@[simp] theorem regRun_length (x : Nibble) : (regRun s x).length = x.toNat + 1 := by
  have := x.isLt
  simp only [regRun, List.length_take, Vector.length_toList]
  omega

/-- Byte k of a dump is `V[k]` (42_index_memory.md R90). -/
theorem regRun_getElem (x : Nibble) (k : Nat) (h : k < (regRun s x).length) :
    (regRun s x)[k] = s.v[k]'(by simp only [regRun_length] at h; have := x.isLt; omega) := by
  simp [regRun]

/-- Register r after a load (42_index_memory.md R91). -/
theorem loadedRegs_reg (x r : Nibble) :
    (s.setRegs (loadedRegs s x)).reg r =
      if r.toNat ≤ x.toNat then Memory.read s.mem (s.i.toNat + r.toNat) else s.reg r := by
  simp [State.reg, State.setRegs, loadedRegs]

@[simp] theorem bcdDigits_length (b : Byte) : (bcdDigits b).length = 3 := rfl

/-! ### The lowest key (44_keys_timers.md R102) -/

theorem lowestKey_none : lowestKey s = none ↔ ∀ k, k < 16 → s.keyDown k = false := by
  simp [lowestKey, List.find?_eq_none]

theorem lowestKey_some {k : Nat} (h : lowestKey s = some k) :
    k < 16 ∧ s.keyDown k = true ∧ ∀ j, j < k → s.keyDown j = false := by
  unfold lowestKey at h
  obtain ⟨hk, i, hi, hik, hlt⟩ := List.find?_eq_some_iff_getElem.mp h
  rw [List.getElem_range] at hik
  subst hik
  rw [List.length_range] at hi
  refine ⟨hi, hk, fun j hj => ?_⟩
  have := hlt j hj
  simpa using this

/-! ### The flag byte (10_state.md R11) -/

theorem flagByte_cases (f : Bool) : (f = true ∧ flagByte f = 1#8) ∨ (f = false ∧ flagByte f = 0#8) := by
  cases f <;> simp [flagByte]

end Sys2Proof.Machine
end

