-- ==== Sys2Proof/Laws/PerInstr.lean ====
section
/-! SUPPORT. Per instruction, for the host's case split: the encoder's word agrees with the row of spec/opcode_table.json
("a fetched word w is this instruction when w & mask = match", spec/INDEX.md). -/

namespace Sys2Proof.Laws

/-- The mask and the match of an instruction's row in spec/opcode_table.json. -/
def opcodeRow : Instr → Word × Word
  | .cls => (0xFFFF#16, 0x00E0#16)
  | .ret => (0xFFFF#16, 0x00EE#16)
  | .sys _ => (0xF000#16, 0x0000#16)
  | .jp _ => (0xF000#16, 0x1000#16)
  | .call _ => (0xF000#16, 0x2000#16)
  | .seImm _ _ => (0xF000#16, 0x3000#16)
  | .sneImm _ _ => (0xF000#16, 0x4000#16)
  | .seReg _ _ => (0xF00F#16, 0x5000#16)
  | .ldImm _ _ => (0xF000#16, 0x6000#16)
  | .addImm _ _ => (0xF000#16, 0x7000#16)
  | .ldReg _ _ => (0xF00F#16, 0x8000#16)
  | .orReg _ _ => (0xF00F#16, 0x8001#16)
  | .andReg _ _ => (0xF00F#16, 0x8002#16)
  | .xorReg _ _ => (0xF00F#16, 0x8003#16)
  | .addReg _ _ => (0xF00F#16, 0x8004#16)
  | .subReg _ _ => (0xF00F#16, 0x8005#16)
  | .shr _ _ => (0xF00F#16, 0x8006#16)
  | .subn _ _ => (0xF00F#16, 0x8007#16)
  | .shl _ _ => (0xF00F#16, 0x800E#16)
  | .sneReg _ _ => (0xF00F#16, 0x9000#16)
  | .ldI _ => (0xF000#16, 0xA000#16)
  | .jpV0 _ => (0xF000#16, 0xB000#16)
  | .rnd _ _ => (0xF000#16, 0xC000#16)
  | .drw _ _ _ => (0xF000#16, 0xD000#16)
  | .skp _ => (0xF0FF#16, 0xE09E#16)
  | .sknp _ => (0xF0FF#16, 0xE0A1#16)
  | .ldVxDt _ => (0xF0FF#16, 0xF007#16)
  | .ldVxK _ => (0xF0FF#16, 0xF00A#16)
  | .ldDtVx _ => (0xF0FF#16, 0xF015#16)
  | .ldStVx _ => (0xF0FF#16, 0xF018#16)
  | .addI _ => (0xF0FF#16, 0xF01E#16)
  | .ldF _ => (0xF0FF#16, 0xF029#16)
  | .ldB _ => (0xF0FF#16, 0xF033#16)
  | .dump _ => (0xF0FF#16, 0xF055#16)
  | .load _ => (0xF0FF#16, 0xF065#16)

/-- The word of the instruction is one of its row's. -/
def OpcodeRow.Statement (i : Instr) : Prop := encode i &&& (opcodeRow i).1 = (opcodeRow i).2

theorem OpcodeRow.cls : OpcodeRow.Statement .cls := by
  rfl

theorem OpcodeRow.ret : OpcodeRow.Statement .ret := by
  rfl

theorem OpcodeRow.sys (nnn : Addr) : OpcodeRow.Statement (.sys nnn) := by
  simp only [OpcodeRow.Statement, opcodeRow, encode, wordA]
  ext i hi
  interval_cases i <;> simp

theorem OpcodeRow.jp (nnn : Addr) : OpcodeRow.Statement (.jp nnn) := by
  simp only [OpcodeRow.Statement, opcodeRow, encode, wordA]
  ext i hi
  interval_cases i <;> simp

theorem OpcodeRow.call (nnn : Addr) : OpcodeRow.Statement (.call nnn) := by
  simp only [OpcodeRow.Statement, opcodeRow, encode, wordA]
  ext i hi
  interval_cases i <;> simp

theorem OpcodeRow.seImm (x : Nibble) (kk : Byte) : OpcodeRow.Statement (.seImm x kk) := by
  simp only [OpcodeRow.Statement, opcodeRow, encode, wordXK]
  ext i hi
  interval_cases i <;> simp

theorem OpcodeRow.sneImm (x : Nibble) (kk : Byte) : OpcodeRow.Statement (.sneImm x kk) := by
  simp only [OpcodeRow.Statement, opcodeRow, encode, wordXK]
  ext i hi
  interval_cases i <;> simp

theorem OpcodeRow.seReg (x : Nibble) (y : Nibble) : OpcodeRow.Statement (.seReg x y) := by
  simp only [OpcodeRow.Statement, opcodeRow, encode, wordXYN]
  ext i hi
  interval_cases i <;> simp

theorem OpcodeRow.ldImm (x : Nibble) (kk : Byte) : OpcodeRow.Statement (.ldImm x kk) := by
  simp only [OpcodeRow.Statement, opcodeRow, encode, wordXK]
  ext i hi
  interval_cases i <;> simp

theorem OpcodeRow.addImm (x : Nibble) (kk : Byte) : OpcodeRow.Statement (.addImm x kk) := by
  simp only [OpcodeRow.Statement, opcodeRow, encode, wordXK]
  ext i hi
  interval_cases i <;> simp

theorem OpcodeRow.ldReg (x : Nibble) (y : Nibble) : OpcodeRow.Statement (.ldReg x y) := by
  simp only [OpcodeRow.Statement, opcodeRow, encode, wordXYN]
  ext i hi
  interval_cases i <;> simp

theorem OpcodeRow.orReg (x : Nibble) (y : Nibble) : OpcodeRow.Statement (.orReg x y) := by
  simp only [OpcodeRow.Statement, opcodeRow, encode, wordXYN]
  ext i hi
  interval_cases i <;> simp

theorem OpcodeRow.andReg (x : Nibble) (y : Nibble) : OpcodeRow.Statement (.andReg x y) := by
  simp only [OpcodeRow.Statement, opcodeRow, encode, wordXYN]
  ext i hi
  interval_cases i <;> simp

theorem OpcodeRow.xorReg (x : Nibble) (y : Nibble) : OpcodeRow.Statement (.xorReg x y) := by
  simp only [OpcodeRow.Statement, opcodeRow, encode, wordXYN]
  ext i hi
  interval_cases i <;> simp

theorem OpcodeRow.addReg (x : Nibble) (y : Nibble) : OpcodeRow.Statement (.addReg x y) := by
  simp only [OpcodeRow.Statement, opcodeRow, encode, wordXYN]
  ext i hi
  interval_cases i <;> simp

theorem OpcodeRow.subReg (x : Nibble) (y : Nibble) : OpcodeRow.Statement (.subReg x y) := by
  simp only [OpcodeRow.Statement, opcodeRow, encode, wordXYN]
  ext i hi
  interval_cases i <;> simp

theorem OpcodeRow.shr (x : Nibble) (y : Nibble) : OpcodeRow.Statement (.shr x y) := by
  simp only [OpcodeRow.Statement, opcodeRow, encode, wordXYN]
  ext i hi
  interval_cases i <;> simp

theorem OpcodeRow.subn (x : Nibble) (y : Nibble) : OpcodeRow.Statement (.subn x y) := by
  simp only [OpcodeRow.Statement, opcodeRow, encode, wordXYN]
  ext i hi
  interval_cases i <;> simp

theorem OpcodeRow.shl (x : Nibble) (y : Nibble) : OpcodeRow.Statement (.shl x y) := by
  simp only [OpcodeRow.Statement, opcodeRow, encode, wordXYN]
  ext i hi
  interval_cases i <;> simp

theorem OpcodeRow.sneReg (x : Nibble) (y : Nibble) : OpcodeRow.Statement (.sneReg x y) := by
  simp only [OpcodeRow.Statement, opcodeRow, encode, wordXYN]
  ext i hi
  interval_cases i <;> simp

theorem OpcodeRow.ldI (nnn : Addr) : OpcodeRow.Statement (.ldI nnn) := by
  simp only [OpcodeRow.Statement, opcodeRow, encode, wordA]
  ext i hi
  interval_cases i <;> simp

theorem OpcodeRow.jpV0 (nnn : Addr) : OpcodeRow.Statement (.jpV0 nnn) := by
  simp only [OpcodeRow.Statement, opcodeRow, encode, wordA]
  ext i hi
  interval_cases i <;> simp

theorem OpcodeRow.rnd (x : Nibble) (kk : Byte) : OpcodeRow.Statement (.rnd x kk) := by
  simp only [OpcodeRow.Statement, opcodeRow, encode, wordXK]
  ext i hi
  interval_cases i <;> simp

theorem OpcodeRow.drw (x : Nibble) (y : Nibble) (n : Nibble) : OpcodeRow.Statement (.drw x y n) := by
  simp only [OpcodeRow.Statement, opcodeRow, encode, wordXYN]
  ext i hi
  interval_cases i <;> simp

theorem OpcodeRow.skp (x : Nibble) : OpcodeRow.Statement (.skp x) := by
  simp only [OpcodeRow.Statement, opcodeRow, encode, wordXK]
  ext i hi
  interval_cases i <;> simp

theorem OpcodeRow.sknp (x : Nibble) : OpcodeRow.Statement (.sknp x) := by
  simp only [OpcodeRow.Statement, opcodeRow, encode, wordXK]
  ext i hi
  interval_cases i <;> simp

theorem OpcodeRow.ldVxDt (x : Nibble) : OpcodeRow.Statement (.ldVxDt x) := by
  simp only [OpcodeRow.Statement, opcodeRow, encode, wordXK]
  ext i hi
  interval_cases i <;> simp

theorem OpcodeRow.ldVxK (x : Nibble) : OpcodeRow.Statement (.ldVxK x) := by
  simp only [OpcodeRow.Statement, opcodeRow, encode, wordXK]
  ext i hi
  interval_cases i <;> simp

theorem OpcodeRow.ldDtVx (x : Nibble) : OpcodeRow.Statement (.ldDtVx x) := by
  simp only [OpcodeRow.Statement, opcodeRow, encode, wordXK]
  ext i hi
  interval_cases i <;> simp

theorem OpcodeRow.ldStVx (x : Nibble) : OpcodeRow.Statement (.ldStVx x) := by
  simp only [OpcodeRow.Statement, opcodeRow, encode, wordXK]
  ext i hi
  interval_cases i <;> simp

theorem OpcodeRow.addI (x : Nibble) : OpcodeRow.Statement (.addI x) := by
  simp only [OpcodeRow.Statement, opcodeRow, encode, wordXK]
  ext i hi
  interval_cases i <;> simp

theorem OpcodeRow.ldF (x : Nibble) : OpcodeRow.Statement (.ldF x) := by
  simp only [OpcodeRow.Statement, opcodeRow, encode, wordXK]
  ext i hi
  interval_cases i <;> simp

theorem OpcodeRow.ldB (x : Nibble) : OpcodeRow.Statement (.ldB x) := by
  simp only [OpcodeRow.Statement, opcodeRow, encode, wordXK]
  ext i hi
  interval_cases i <;> simp

theorem OpcodeRow.dump (x : Nibble) : OpcodeRow.Statement (.dump x) := by
  simp only [OpcodeRow.Statement, opcodeRow, encode, wordXK]
  ext i hi
  interval_cases i <;> simp

theorem OpcodeRow.load (x : Nibble) : OpcodeRow.Statement (.load x) := by
  simp only [OpcodeRow.Statement, opcodeRow, encode, wordXK]
  ext i hi
  interval_cases i <;> simp

end Sys2Proof.Laws
end

