-- ==== Sys2Proof/Laws/Step.lean ====
section
/-! SUPPORT. What a Step can do, said once: the cases of `step`, and the three ways an instruction ends
(30_encoding.md R52). -/

namespace Sys2Proof.Machine

theorem engineHalted_iff (s : State) : engineHalted s = true ↔ s.status = .halted := by
  simp [engineHalted]

theorem fetch_eq_none (s : State) : fetch s = none ↔ 0xFFE < s.pc.toNat := by
  unfold fetch; split <;> simp <;> omega

theorem fetch_eq_some {s : State} {w : Word} (h : fetch s = some w) :
    s.pc.toNat ≤ 0xFFE ∧
      w = wordOfBytes (Memory.read s.mem s.pc.toNat) (Memory.read s.mem (s.pc.toNat + 1)) := by
  unfold fetch at h; split at h
  · exact ⟨‹_›, (Option.some.inj h).symm⟩
  · cases h

/-- A Step that answers a next state did one of four things: nothing, in HALTED; the fetch fault; the instruction at
pc; the counted no-op of a word that is none. -/
theorem step_cases {s t : State} (h : step s = .next t) :
    (s.status = .halted ∧ t = s) ∨
    (s.status ≠ .halted ∧ 0xFFE < s.pc.toNat ∧ t = s.raiseFault .fetchRange s.pc) ∨
    (s.status ≠ .halted ∧ ∃ w i, fetch s = some w ∧ decodeWord w = .ok i ∧ exec i s = .next t) ∨
    (s.status ≠ .halted ∧ ∃ w r, fetch s = some w ∧ decodeWord w = .error r ∧ t = countedNop s) := by
  unfold step at h
  by_cases hh : engineHalted s = true
  · rw [if_pos hh] at h
    cases h
    exact .inl ⟨(engineHalted_iff s).mp hh, rfl⟩
  · rw [if_neg hh] at h
    have hs : s.status ≠ .halted := fun e => hh ((engineHalted_iff s).mpr e)
    cases hf : fetch s with
    | none =>
      rw [hf] at h
      cases h
      exact .inr (.inl ⟨hs, (fetch_eq_none s).mp hf, rfl⟩)
    | some w =>
      rw [hf] at h
      simp only [runWord] at h
      cases hd : decodeWord w with
      | ok i =>
        rw [hd] at h
        exact .inr (.inr (.inl ⟨hs, w, i, rfl, hd, h⟩))
      | error r =>
        rw [hd] at h
        cases h
        exact .inr (.inr (.inr ⟨hs, w, r, rfl, hd, rfl⟩))

/-- An instruction that answers a next state ended in one of R52's three ways. -/
theorem exec_ends {i : Instr} {s t : State} (h : exec i s = .next t) :
    (t.status = .running ∧ t.faultCause = s.faultCause ∧ t.faultPc = s.faultPc ∧ t.faultInfo = s.faultInfo) ∨
    (t = s.block ∧ ∃ x, i = .ldVxK x) ∨
    ∃ cause info, cause ≠ .noFault ∧ t = s.raiseFault cause info := by
  cases i
  case ret =>
    simp only [exec, execRet] at h
    rcases s.pop_cases with ⟨_, hp⟩ | ⟨_, hp⟩ <;> rw [hp] at h <;> cases h
    · exact .inr (.inr ⟨_, _, by decide, rfl⟩)
    · exact .inl ⟨rfl, rfl, rfl, rfl⟩
  case call nnn =>
    simp only [exec, execCall] at h
    rcases s.push_cases (s.pc + 2#16) with ⟨_, hp⟩ | ⟨_, hp⟩ <;> rw [hp] at h <;> cases h
    · exact .inr (.inr ⟨_, _, by decide, rfl⟩)
    · exact .inl ⟨rfl, rfl, rfl, rfl⟩
  case ldVxK x =>
    simp only [exec, execLdVxK] at h
    split at h <;> cases h
    · exact .inr (.inl ⟨rfl, x, rfl⟩)
    · exact .inl ⟨rfl, rfl, rfl, rfl⟩
  case ldF | skp | sknp | ldB | dump | load | drw =>
    simp only [exec, execLdF, execSkp, execSknp, execLdB, execDump, execLoad, execDrw] at h
    split at h <;> cases h <;>
      first
        | exact .inr (.inr ⟨_, _, by decide, rfl⟩)
        | exact .inl ⟨by simp, by simp, by simp, by simp⟩
  all_goals
    simp only [exec] at h
    cases h
    exact .inl ⟨by simp [countedNop], by simp [countedNop], by simp [countedNop], by simp [countedNop]⟩

end Sys2Proof.Machine
end

