-- ==== Sys2Proof/Tests/Slice0.lean ====
section
/-! SUPPORT. Tests of one step each, with the expected results that spec/95_test_vectors.md (T-…) and 30_encoding.md R49
print, and for each statement of Sys2Proof/Certificates/Slice0/Obligations.lean that has hypotheses a concrete case that
meets them, clause by clause at the boundary (`witness_<statement>`). -/

namespace Sys2Proof.Tests

open Sys2Proof Sys2Proof.Machine

/-! ### The starting states and the form of a vector -/

/-- Registers given values, on top of a state. -/
def regs (l : List (Nibble × Byte)) (s : State) : State := l.foldl (fun s p => s.setReg p.1 p.2) s

/-- Bytes of Memory given values. -/
def bytes (a : Nat) (l : List Byte) (s : State) : State := s.setMem (Memory.writeBytes s.mem a l)

/-- The pixels (column, row) inverted: on, on a blank screen. -/
def pixels (l : List (Fin 64 × Fin 32)) (s : State) : State :=
  { s with fb := l.foldl (fun fb p => fb.flip p.2 p.1) s.fb }

/-- `pc` set. -/
def at_ (a : Word) (s : State) : State := { s with pc := a }

/-- `SP` and one stack slot set. -/
def stack (sp : Fin 17) (slot : Fin 16) (w : Word) (s : State) : State :=
  { s with sp := sp, stack := s.stack.set slot.val w }

/-- A vector of the spec: from `s` with the word at pc, the Step gives `s` with `change`, and nothing else changes. -/
abbrev Becomes (w : Nat) (s : State) (change : State → State) : Prop :=
  (match step (s.withFetchWord 16 w) with
    | .next t => some t
    | _ => none) = some (change (s.withFetchWord 16 w))

/-- The four registers that every Halted row of the vectors shows, fault entered at 0x200. -/
def halts (cause : FaultCause) (info : Word) (s : State) : State :=
  { s with status := .halted, faultCause := cause, faultPc := 0x200, faultInfo := info }

/-! ### WellFormed -/

theorem test_wellFormed_refuses_sys_0E0 : (Instr.sys 0x0E0).WellFormed = false := by decide
theorem test_wellFormed_refuses_sys_0EE : (Instr.sys 0x0EE).WellFormed = false := by decide
theorem test_wellFormed_accepts_sys_0E1 : (Instr.sys 0x0E1).WellFormed = true := by decide

/-! ### Decoding: words written out from the rows of R49 -/

theorem test_decode_flow :
    [0x00EE, 0x1ABC, 0x2208, 0x332A, 0x4CFE, 0x5AB0, 0x9AB0, 0xB123].map (decodeTableWord 16) =
      [some .ret, some (.jp 0xABC), some (.call 0x208), some (.seImm 3 0x2A), some (.sneImm 0xC 0xFE),
        some (.seReg 0xA 0xB), some (.sneReg 0xA 0xB), some (.jpV0 0x123)] := by decide

theorem test_decode_alu :
    [0x6C7E, 0x7DFF, 0x8120, 0x8341, 0x8562, 0x8783, 0x89A4, 0x8BC5, 0x8DE6, 0x8F07, 0x812E, 0xC4B7].map
        (decodeTableWord 16) =
      [some (.ldImm 0xC 0x7E), some (.addImm 0xD 0xFF), some (.ldReg 1 2), some (.orReg 3 4), some (.andReg 5 6),
        some (.xorReg 7 8), some (.addReg 9 0xA), some (.subReg 0xB 0xC), some (.shr 0xD 0xE), some (.subn 0xF 0),
        some (.shl 1 2), some (.rnd 4 0xB7)] := by decide

theorem test_decode_index_memory :
    [0xA2F0, 0xF31E, 0xF429, 0xF533, 0xF655, 0xF765].map (decodeTableWord 16) =
      [some (.ldI 0x2F0), some (.addI 3), some (.ldF 4), some (.ldB 5), some (.dump 6), some (.load 7)] := by decide

theorem test_decode_display : [0x00E0, 0xD12F].map (decodeTableWord 16) = [some .cls, some (.drw 1 2 0xF)] := by decide

theorem test_decode_keys_timers :
    [0xE89E, 0xE9A1, 0xFA07, 0xFB0A, 0xFC15, 0xFD18].map (decodeTableWord 16) =
      [some (.skp 8), some (.sknp 9), some (.ldVxDt 0xA), some (.ldVxK 0xB), some (.ldDtVx 0xC), some (.ldStVx 0xD)] := by
  decide

/-- T-UNK-1 to T-UNK-6: family 0 but for the two constants. -/
theorem test_decode_sys :
    [0x0000, 0x0123, 0x00E1, 0x00EF, 0x00FF, 0x0FFF].map (decodeTableWord 16) =
      [some (.sys 0), some (.sys 0x123), some (.sys 0x0E1), some (.sys 0x0EF), some (.sys 0x0FF), some (.sys 0xFFF)] := by
  decide

/-- T-UNK-7 to T-UNK-20. -/
theorem test_decode_rejects_unknown :
    [0x5121, 0x512F, 0x9121, 0x8128, 0x812D, 0x812F, 0xE19F, 0xE100, 0xE1A0, 0xF100, 0xF130, 0xF175, 0xF1FF,
      0xF10B].map (decodeTableWord 16) = List.replicate 14 none := by decide

/-- The rejection carries the word, as its name. -/
theorem test_decode_rejects_by_name : decodeWord 0x8128 = .error (.unknown 0x8128) := rfl

/-- One byte is no instruction; two are, and the rest is left. -/
theorem test_decode_bytes :
    decodeBytes [0xD1] = .error .truncated ∧ decodeBytes [0xD1, 0x2F, 0xAA] = .ok (.drw 1 2 15, [0xAA]) := ⟨rfl, rfl⟩

/-! ### Control flow (T-FLOW) -/

theorem test_ret_pops : Becomes 0x00EE (at_ 0x208 (stack 1 0 0x0202 .reset)) (fun s => { at_ 0x202 s with sp := 0 }) := by
  decide
theorem test_ret_underflows : Becomes 0x00EE .reset (halts .stackUnderflow 0) := by decide
theorem test_jp : Becomes 0x1ABC .reset (at_ 0xABC) := by decide
theorem test_jp_odd_target : Becomes 0x1201 .reset (at_ 0x201) := by decide
theorem test_call_sixteenth_level :
    Becomes 0x2400 (at_ 0x3FE (stack 15 0 0 .reset)) (fun s => at_ 0x400 (stack 16 15 0x400 s)) := by decide
theorem test_call_overflows : Becomes 0x2400 (stack 16 0 0 .reset) (halts .stackOverflow 16) := by decide
theorem test_jpV0_has_no_mask : Becomes 0xBFFF (regs [(0, 0xFF)] .reset) (at_ 0x10FE) := by decide
theorem test_jpV0_uses_V0 : Becomes 0xB123 (regs [(1, 0x55)] (State.reset.setI 0x999)) (at_ 0x123) := by decide
theorem test_seImm_equal : Becomes 0x332A (regs [(3, 0x2A)] .reset) (at_ 0x204) := by decide
theorem test_seImm_differs : Becomes 0x332B (regs [(3, 0x2A)] .reset) (at_ 0x202) := by decide
theorem test_sneImm_equal : Becomes 0x432A (regs [(3, 0x2A)] .reset) (at_ 0x202) := by decide
theorem test_sneImm_differs : Becomes 0x432B (regs [(3, 0x2A)] .reset) (at_ 0x204) := by decide
theorem test_seReg_equal : Becomes 0x5120 (regs [(1, 7), (2, 7)] .reset) (at_ 0x204) := by decide
theorem test_seReg_differs : Becomes 0x5120 (regs [(1, 7), (2, 8)] .reset) (at_ 0x202) := by decide
theorem test_sneReg_differs : Becomes 0x9120 (regs [(1, 7), (2, 8)] .reset) (at_ 0x204) := by decide
theorem test_sneReg_equal : Becomes 0x9120 (regs [(1, 7), (2, 7)] .reset) (at_ 0x202) := by decide

/-! ### Arithmetic, logic, random (T-ALU) -/

theorem test_ldImm : Becomes 0x6005 .reset (fun s => at_ 0x202 (regs [(0, 5)] s)) := by decide
theorem test_addImm_wraps_without_flag :
    Becomes 0x7105 (regs [(1, 0xFE), (15, 0x55)] .reset) (fun s => at_ 0x202 (regs [(1, 3)] s)) := by decide
theorem test_ldReg :
    Becomes 0x8120 (regs [(1, 0x11), (2, 0x9C)] .reset) (fun s => at_ 0x202 (regs [(1, 0x9C)] s)) := by decide
theorem test_orReg :
    Becomes 0x8121 (regs [(1, 0x0F), (2, 0xA0), (15, 0x55)] .reset) (fun s => at_ 0x202 (regs [(1, 0xAF)] s)) := by decide
theorem test_andReg :
    Becomes 0x8122 (regs [(1, 0x3C), (2, 0x0F), (15, 0x55)] .reset) (fun s => at_ 0x202 (regs [(1, 0x0C)] s)) := by decide
theorem test_xorReg :
    Becomes 0x8123 (regs [(1, 0xFF), (2, 0x0F), (15, 0x55)] .reset) (fun s => at_ 0x202 (regs [(1, 0xF0)] s)) := by decide
theorem test_addReg_sum_FF_has_no_carry :
    Becomes 0x8124 (regs [(1, 0x80), (2, 0x7F), (15, 1)] .reset) (fun s => at_ 0x202 (regs [(1, 0xFF), (15, 0)] s)) := by
  decide
theorem test_addReg_into_VF_leaves_the_flag :
    Becomes 0x8F14 (regs [(15, 0xF0), (1, 0x20)] .reset) (fun s => at_ 0x202 (regs [(15, 1)] s)) := by decide
theorem test_subReg_equal_has_no_borrow :
    Becomes 0x8125 (regs [(1, 5), (2, 5)] .reset) (fun s => at_ 0x202 (regs [(1, 0), (15, 1)] s)) := by decide
theorem test_subReg_borrows :
    Becomes 0x8125 (regs [(1, 3), (2, 5), (15, 1)] .reset) (fun s => at_ 0x202 (regs [(1, 0xFE), (15, 0)] s)) := by decide
theorem test_shr_ignores_y :
    Becomes 0x8126 (regs [(1, 5), (2, 0xF0)] .reset) (fun s => at_ 0x202 (regs [(1, 2), (15, 1)] s)) := by decide
theorem test_shr_clears_flag :
    Becomes 0x8106 (regs [(1, 0xFE), (15, 1)] .reset) (fun s => at_ 0x202 (regs [(1, 0x7F), (15, 0)] s)) := by decide
theorem test_subn :
    Becomes 0x8127 (regs [(1, 3), (2, 5)] .reset) (fun s => at_ 0x202 (regs [(1, 2), (15, 1)] s)) := by decide
theorem test_subn_borrows :
    Becomes 0x8127 (regs [(1, 5), (2, 3), (15, 1)] .reset) (fun s => at_ 0x202 (regs [(1, 0xFE), (15, 0)] s)) := by decide
theorem test_shl :
    Becomes 0x810E (regs [(1, 0x81)] .reset) (fun s => at_ 0x202 (regs [(1, 2), (15, 1)] s)) := by decide
theorem test_shl_ignores_y :
    Becomes 0x812E (regs [(1, 0x40), (2, 0xFF)] .reset) (fun s => at_ 0x202 (regs [(1, 0x80)] s)) := by decide

/-- T-ALU-21: with the draw 0xB7 and the mask 0x0F. -/
theorem test_rnd_masks_the_draw (h : Config.rnd 0 = 0xB7) :
    exec (.rnd 1 0x0F) (regs [(1, 0xEE)] .reset) =
      .next { at_ 0x202 (regs [(1, 0x07)] (regs [(1, 0xEE)] .reset)) with draws := 1 } := by
  show Host.Outcome.next (((regs [(1, 0xEE)] State.reset).setReg 1 (Config.rnd 0 &&& 0x0F)).takeDraw.advance) = _
  rw [h]
  rfl

/-- T-ALU-21b: with the mask 0 the draw does not show. -/
theorem test_rnd_mask_zero :
    exec (.rnd 1 0) (regs [(1, 0xEE)] .reset) =
      .next { at_ 0x202 (regs [(1, 0)] (regs [(1, 0xEE)] .reset)) with draws := 1 } := by
  show Host.Outcome.next (((regs [(1, 0xEE)] State.reset).setReg 1 (Config.rnd 0 &&& 0#8)).takeDraw.advance) = _
  rw [BitVec.and_zero]
  rfl

/-! ### Address register and memory (T-MEM) -/

theorem test_ldI : Becomes 0xAFFF (State.reset.setI 0x1234) (fun s => at_ 0x202 (s.setI 0x0FFF)) := by decide
theorem test_addI_passes_FFF :
    Becomes 0xF11E (regs [(1, 1), (15, 0x55)] (State.reset.setI 0x0FFF)) (fun s => at_ 0x202 (s.setI 0x1000)) := by decide
theorem test_addI_wraps :
    Becomes 0xF11E (regs [(1, 2)] (State.reset.setI 0xFFFF)) (fun s => at_ 0x202 (s.setI 1)) := by decide
theorem test_ldF_last_glyph : Becomes 0xF129 (regs [(1, 0x0F)] .reset) (fun s => at_ 0x202 (s.setI 0x4B)) := by decide
theorem test_ldF_digit_16_faults : Becomes 0xF129 (regs [(1, 0x10)] .reset) (halts .glyphIndexRange 0x10) := by decide
theorem test_ldB_123 :
    Becomes 0xF133 (regs [(1, 0x7B)] (State.reset.setI 0x300)) (fun s => at_ 0x202 (bytes 0x300 [1, 2, 3] s)) := by decide
theorem test_ldB_past_the_end_faults :
    Becomes 0xF133 (regs [(1, 9)] (State.reset.setI 0x0FFE)) (halts .memWriteRange 0x0FFE) := by decide
theorem test_dump_stops_at_x :
    Becomes 0xF255 (regs [(0, 0x11), (1, 0x22), (2, 0x33), (3, 0x44)] (State.reset.setI 0x300))
      (fun s => at_ 0x202 ((bytes 0x300 [0x11, 0x22, 0x33] s).setI 0x303)) := by decide
theorem test_dump_past_the_end_writes_nothing :
    Becomes 0xF155 (regs [(0, 0x11), (1, 0x22)] (State.reset.setI 0x0FFF)) (halts .memWriteRange 0x0FFF) := by decide
theorem test_load_stops_at_x :
    Becomes 0xF265 (regs [(3, 0x77)] (bytes 0x300 [0xDE, 0xAD, 0xBE, 0xEF] (State.reset.setI 0x300)))
      (fun s => at_ 0x202 ((regs [(0, 0xDE), (1, 0xAD), (2, 0xBE)] s).setI 0x303)) := by decide
theorem test_load_past_the_end_loads_nothing :
    Becomes 0xF165 (regs [(0, 0x55)] (State.reset.setI 0x0FFF)) (halts .memReadRange 0x0FFF) := by decide

/-! ### Framebuffer (T-DRW) -/

theorem test_cls :
    Becomes 0x00E0 (pixels [(4, 3), (63, 31)] (regs [(15, 0x55)] .reset))
      (fun s => { at_ 0x202 (pixels [(4, 3), (63, 31)] s) with dirty := true }) := by decide
theorem test_drw_wraps_rows :
    Becomes 0xD012 (regs [(0, 0x48), (1, 0x3F)] (bytes 0x300 [0xFF, 0x81] (State.reset.setI 0x300)))
      (fun s => { at_ 0x202 (pixels [(8, 0), (8, 31), (9, 31), (10, 31), (11, 31), (12, 31), (13, 31), (14, 31),
        (15, 0), (15, 31)] s) with dirty := true }) := by decide
/-- T-DRW-10: the old VF is the column, the new one the collision. -/
theorem test_drw_collides :
    Becomes 0xDF01 (pixels [(2, 1)] (regs [(15, 2), (0, 1)] (bytes 0x300 [0x80] (State.reset.setI 0x300))))
      (fun s => { at_ 0x202 (pixels [(2, 1)] (regs [(15, 1)] s)) with dirty := true }) := by decide

/-! ### Keys and timers (T-KEY, T-TMR) -/

theorem test_skp_register_is_the_key : Becomes 0xE29E (setKeys 0x0004 (regs [(2, 7)] .reset)) (at_ 0x202) := by decide
theorem test_skp_index_16_faults :
    Becomes 0xE29E (setKeys 0x0001 (regs [(2, 0x10)] .reset)) (halts .keyIndexRange 0x10) := by decide
theorem test_sknp_up : Becomes 0xE2A1 (regs [(2, 7)] .reset) (at_ 0x204) := by decide
theorem test_sknp_down : Becomes 0xE2A1 (setKeys 0x0080 (regs [(2, 7)] .reset)) (at_ 0x202) := by decide
theorem test_ldVxK_blocks :
    Becomes 0xF30A (regs [(3, 0x77)] .reset) (fun s => { s with status := .blockedOnKey }) := by decide
theorem test_ldVxK_lowest_key :
    Becomes 0xF30A (setKeys 0x0210 (regs [(3, 0x77)] .reset)) (fun s => at_ 0x202 (regs [(3, 4)] s)) := by decide
theorem test_ldVxDt :
    Becomes 0xF507 (regs [(5, 0xFF)] (State.reset.setDt 0x2C)) (fun s => at_ 0x202 (regs [(5, 0x2C)] s)) := by decide
theorem test_ldDtVx : Becomes 0xF515 (regs [(5, 0x3C)] .reset) (fun s => at_ 0x202 (s.setDt 0x3C)) := by decide
theorem test_ldStVx : Becomes 0xF518 (regs [(5, 8)] .reset) (fun s => at_ 0x202 (s.setSt 8)) := by decide

/-! ### Unknown words, fetch, reports (T-UNK, T-FLT) -/

theorem test_sys : Becomes 0x0123 .reset (fun s => { at_ 0x202 s with unkCount := 1 }) := by decide
theorem test_unknown_word : Becomes 0x5121 .reset (fun s => { at_ 0x202 s with unkCount := 1 }) := by decide
/-- T-FLT-3c: the last address an instruction can be fetched from. -/
theorem test_fetch_at_FFE : Becomes 0x6A42 (at_ 0xFFE .reset) (fun s => at_ 0x1000 (regs [(10, 0x42)] s)) := by decide
/-- T-FLT-3. -/
theorem test_fetch_at_FFF :
    step (at_ 0xFFF .reset) = .next { at_ 0xFFF .reset with
      status := .halted, faultCause := .fetchRange, faultPc := 0xFFF, faultInfo := 0xFFF } := rfl
/-- T-FLT-8. -/
theorem test_halted_step_changes_nothing :
    step (halts .stackUnderflow 0 .reset) = .next (halts .stackUnderflow 0 .reset) ∧
      stepReport (halts .stackUnderflow 0 .reset) = some (.halted .stackUnderflow) := ⟨rfl, rfl⟩
/-- The outcomes of T-FLOW-4, T-UNK-7, T-KEY-7 and T-FLOW-2. -/
theorem test_reports :
    [0x1ABC, 0x5121, 0xF30A, 0x00EE].map (fun w => stepReport (State.reset.withFetchWord 16 w)) =
      [some .completed, some (.unknownNop 0x5121), some .blocked, some (.halted .stackUnderflow)] := by decide

/-! ### Ticks and the host (T-TMR-7, T-TMR-9, T-HOST) -/

theorem test_tick_counts_each : tick { State.reset with dt := 1, st := 0xFF } = { State.reset with dt := 0, st := 0xFE } := by
  decide
theorem test_tick_stops_at_zero : tick .reset = .reset := by decide
theorem test_tick_runs_in_halted :
    tick { halts .stackUnderflow 0 .reset with dt := 5, st := 2 } =
      { halts .stackUnderflow 0 .reset with dt := 4, st := 1 } := by decide
theorem test_setKeys_replaces : setKeys 0x0001 { State.reset with key := 0x0088 } = { State.reset with key := 0x0001 } := by
  decide
theorem test_ackDirty : ackDirty { State.reset with dirty := true } = .reset := by decide
/-- T-HOST-1 and T-HOST-2. -/
theorem test_reset_length_limit (p q : List Byte) (hp : p.length = 3584) (hq : q.length = 3585) (s : State) :
    hostReset defaultFont p s = .next (State.resetWith defaultFont p s.draws) ∧
      hostReset defaultFont q s = .refused (.programTooLong 3585) := by
  simp [hostReset, Config.progMaxLen, hp, hq]
/-- T-HOST-4: Reset leaves HALTED; the program stands at 0x200. -/
theorem test_reset_leaves_halted :
    stateAfter defaultFont (.reset [0x12, 0x34]) (stack 16 3 7 (regs [(0, 0x55)] (halts .stackOverflow 16 .reset))) =
      bytes 0x200 [0x12, 0x34] .reset := by decide +kernel
/-- R126: ReadState gives the codes of R20 and R21, ReadMem the byte; no address above 0xFFF exists. -/
theorem test_host_reads :
    (readState (halts .glyphIndexRange 0x10 .reset)).status = 2 ∧
      (readState (halts .glyphIndexRange 0x10 .reset)).faultCause = 7 ∧
      readMem 0 .reset = .next 0xF0 ∧ readMem 0x1000 .reset = .fault (.noSuchAddress 0x1000) :=
  ⟨rfl, rfl, rfl, rfl⟩
/-- The state at reset is what Reset with the empty program and the default font leaves. -/
theorem test_reset_is_reset_with_empty_program : stateAfter defaultFont (.reset []) .reset = .reset := by decide +kernel

/-! ### Witnesses: the hypotheses of each statement can be met, clause by clause -/

/-- A state with an instruction word at pc. -/
def placed (w : Nat) (s : State := .reset) : State := s.withFetchWord 16 w

theorem witness_DecodeOfEncode : (Instr.sys 0x0E1).WellFormed = true ∧ (Instr.drw 15 15 15).WellFormed = true := by decide

theorem witness_EncodeOfDecode : decodeWord 0xD12F = .ok (.drw 1 2 15) := rfl

theorem witness_StepRunsTheDecodedInstruction :
    let s := placed 0x6A42 (at_ 0xFFE .reset)
    s.status ≠ .halted ∧ s.pc.toNat ≤ 0xFFE ∧
      decodeWord (wordOfBytes (Memory.read s.mem s.pc.toNat) (Memory.read s.mem (s.pc.toNat + 1))) =
        .ok (.ldImm 0xA 0x42) := ⟨by decide, by decide, rfl⟩

/-- One word of each of the five families. -/
theorem witness_UnknownWordIsCountedNop :
    (∀ w ∈ [0x5121, 0x912F, 0x8128, 0xE19F, 0xF10B],
      (placed w).status ≠ .halted ∧ fetch (placed w) = some (BitVec.ofNat 16 w)) ∧
      (0x5121 / 0x1000 = 5 ∧ 0x5121 % 16 ≠ 0) ∧ (0x912F / 0x1000 = 9 ∧ 0x912F % 16 ≠ 0) ∧
      (0x8128 / 0x1000 = 8 ∧ 0x8128 % 16 ∈ [8, 9, 0xA, 0xB, 0xC, 0xD, 0xF]) ∧
      (0xE19F / 0x1000 = 0xE ∧ 0xE19F % 256 ∉ [0x9E, 0xA1]) ∧
      (0xF10B / 0x1000 = 0xF ∧ 0xF10B % 256 ∉ [0x07, 0x0A, 0x15, 0x18, 0x1E, 0x29, 0x33, 0x55, 0x65]) := by decide

theorem witness_FetchOutOfRangeFaults :
    (at_ 0xFFF .reset).status ≠ .halted ∧ 0xFFE < (at_ 0xFFF .reset).pc.toNat := by decide

theorem witness_FaultingStepHasNoOtherEffect :
    (placed 0x00EE).status ≠ .halted ∧ step (placed 0x00EE) = .next (halts .stackUnderflow 0 (placed 0x00EE)) ∧
      (halts .stackUnderflow 0 (placed 0x00EE)).status = .halted := ⟨by decide, rfl, by decide⟩

theorem witness_OnlyResetLeavesHalted :
    (halts .stackUnderflow 0 .reset).status = .halted ∧ ∀ p, Move.reset p ∉ [Move.tick, .step, .setKeys 1, .ackDirty] := by
  simp [halts]

/-- The clauses: halted, blocked, running after an instruction, running after an unknown word. -/
theorem witness_ReportNamesTheEnding :
    (∃ t, step (placed 0x00EE) = .next t ∧ t.status = .halted) ∧
      (∃ t, step (placed 0xF30A) = .next t ∧ t.status = .blockedOnKey) ∧
      (∃ t, step (placed 0x1ABC) = .next t ∧ t.status = .running ∧ isUnknownWord 0x1ABC = false) ∧
      (∃ t, step (placed 0x5121) = .next t ∧ t.status = .running ∧ isUnknownWord 0x5121 = true) :=
  ⟨⟨_, rfl, by decide⟩, ⟨_, rfl, by decide⟩, ⟨_, rfl, by decide, by decide⟩, ⟨_, rfl, by decide, by decide⟩⟩

theorem witness_StoredWordIsExecuted :
    (at_ 0xFFE .reset).status ≠ .halted ∧ (at_ 0xFFE .reset).pc.toNat ≤ 0xFFE ∧
      decodeTableWord 16 0x6A42 = some (.ldImm 0xA 0x42) := by decide

theorem witness_ResetLoadsTheProgram :
    (List.replicate 3584 (0 : Byte)).length ≤ 3584 ∧ 3584 < (List.replicate 3585 (0 : Byte)).length ∧
      1 < [0x12#8, 0x34#8].length ∧ 0x200 + [0x12#8, 0x34#8].length ≤ 0xFFF :=
  ⟨Nat.le_of_eq List.length_replicate, by rw [List.length_replicate]; decide, by decide, by decide⟩

/-- Fifteen held addresses, sixteen held addresses. -/
theorem witness_CallPushesReturnAddress :
    (stack 15 0 0 .reset).sp.val < 16 ∧ (stack 16 0 0 .reset).sp.val = 16 := by decide

/-- One and sixteen held addresses, none held. -/
theorem witness_ReturnPopsReturnAddress :
    (stack 1 0 0 .reset).sp.val = (0 : Fin 16).val + 1 ∧ (stack 16 0 0 .reset).sp.val = (15 : Fin 16).val + 1 ∧
      State.reset.sp.val = 0 := by decide

theorem witness_ReturnLandsAfterTheCall :
    (stack 15 0 0 .reset).sp.val < 16 ∧
      ∃ t, exec (.call 0x300) (stack 15 0 0 .reset) = .next t ∧ (at_ 0x304 t).stack = t.stack ∧ (at_ 0x304 t).sp = t.sp :=
  ⟨by decide, _, rfl, rfl, rfl⟩

/-- The result clause of the five flag-writing instructions. -/
theorem witness_AddRegistersSetsCarry : (14 : Nibble) ≠ 15 := by decide
theorem witness_SubtractSetsNotBorrow : (14 : Nibble) ≠ 15 := by decide
theorem witness_SubtractReverseSetsNotBorrow : (14 : Nibble) ≠ 15 := by decide
theorem witness_ShiftRightSetsOldBitZero : (14 : Nibble) ≠ 15 := by decide
theorem witness_ShiftLeftSetsOldBitSeven : (14 : Nibble) ≠ 15 := by decide

theorem witness_RandomIsDrawAndMask : (0x7F : Byte).getLsbD 7 = false := by decide

/-- The last digit and the first value above it. -/
theorem witness_GlyphAddressIsFiveTimesTheDigit :
    ((regs [(1, 0x0F)] .reset).reg 1).toNat ≤ 0x0F ∧ 0x0F < ((regs [(1, 0x10)] .reset).reg 1).toNat := by decide

/-- The last address at which three bytes fit, and the first at which they do not. -/
theorem witness_StoreBcdWritesThreeDigits :
    (State.reset.setI 0xFFD).i.toNat + 2 ≤ 0xFFF ∧ 0xFFF < (State.reset.setI 0xFFE).i.toNat + 2 ∧
      0xFFC < (State.reset.setI 0xFFD).i.toNat ∧ (State.reset.setI 0xFFC).i.toNat + 2 < 0xFFF := by decide

theorem witness_DumpStoresRegistersAndAdvancesI :
    (State.reset.setI 0xFF0).i.toNat + (15 : Nibble).toNat ≤ 0xFFF ∧
      0xFFF < (State.reset.setI 0xFF1).i.toNat + (15 : Nibble).toNat ∧ (15 : Nibble).toNat ≤ (15 : Nibble).toNat ∧
      0xFEF < (State.reset.setI 0xFF0).i.toNat ∧
      (State.reset.setI 0xFF0).i.toNat + (14 : Nibble).toNat < 0xFFF := by decide

theorem witness_LoadReadsRegistersAndAdvancesI :
    (State.reset.setI 0xFFF).i.toNat + (0 : Nibble).toNat ≤ 0xFFF ∧
      0xFFF < (State.reset.setI 0x1000).i.toNat + (0 : Nibble).toNat := by decide

theorem witness_LoadAfterDumpRestoresRegisters :
    (State.reset.setI 0xFF0).i.toNat + (15 : Nibble).toNat ≤ 0xFFF ∧
      ∃ t, exec (.dump 15) (State.reset.setI 0xFF0) = .next t ∧
        (t.setI 0xFF0).mem = t.mem ∧ (t.setI 0xFF0).i = (State.reset.setI 0xFF0).i :=
  ⟨by decide, _, rfl, rfl, rfl⟩

/-- T-DRW-9 with the pixel (0,0) off and on: a sprite byte 0x80 at 0xFFF, drawn at the origin. -/
def dot : State := bytes 0xFFF [0x80] (State.reset.setI 0xFFF)

theorem dot_covers_origin (s : State) (hm : s.mem = dot.mem) (hi : s.i = dot.i) (h0 : s.reg 0 = 0) :
    SpriteCovers s 0 0 1 0 0 := by
  refine ⟨0, by decide, 0, by decide, ?_, ?_, ?_⟩
  · rw [hm, hi]; decide
  · rw [h0]; decide
  · rw [h0]; decide

theorem dot_covers_only_origin (py : Fin 32) (px : Fin 64) (h : SpriteCovers dot 0 0 1 py px) : py = 0 ∧ px = 0 := by
  obtain ⟨r, hr, c, hc, hb, hy, hx⟩ := h
  have hr0 : r = 0 := by
    have : (1 : Nibble).toNat = 1 := rfl
    omega
  subst hr0
  have hc0 : c = 0 := by
    by_contra hne
    have : ∀ c, c < 8 → c ≠ 0 → (Memory.read dot.mem (dot.i.toNat + 0)).getLsbD (7 - c) ≠ true := by decide
    exact this c hc hne hb
  subst hc0
  exact ⟨Fin.ext hy, Fin.ext hx⟩

/-- n = 0 with I out of range, the last sprite byte, a covered pixel, an uncovered one, a collision, none, a fault. -/
theorem witness_DrawFlipsCoveredPixels :
    ((0 : Nibble).toNat = 0 ∨ (State.reset.setI 0x1234).i.toNat + (0 : Nibble).toNat - 1 ≤ 0xFFF) ∧
      ((1 : Nibble).toNat = 0 ∨ dot.i.toNat + (1 : Nibble).toNat - 1 ≤ 0xFFF) ∧
      SpriteCovers dot 0 0 1 0 0 ∧ ¬ SpriteCovers dot 0 0 1 0 1 ∧
      (∃ py px, SpriteCovers (pixels [(0, 0)] dot) 0 0 1 py px ∧ (pixels [(0, 0)] dot).fb.pixel py px = true) ∧
      (∀ py px, SpriteCovers dot 0 0 1 py px → dot.fb.pixel py px = false) ∧
      (0 < (2 : Nibble).toNat ∧ 0xFFF < dot.i.toNat + (2 : Nibble).toNat - 1) := by
  refine ⟨by decide, by decide, dot_covers_origin _ rfl rfl rfl, fun h => ?_, ⟨0, 0, ?_, by decide⟩, ?_, by decide⟩
  · exact absurd (dot_covers_only_origin _ _ h).2 (by decide)
  · exact dot_covers_origin _ rfl rfl rfl
  · intro py px h
    obtain ⟨rfl, rfl⟩ := dot_covers_only_origin _ _ h
    decide

theorem witness_DrawOnClearedScreenShowsTheSprite :
    (1 : Nibble).toNat = 0 ∨ dot.i.toNat + (1 : Nibble).toNat - 1 ≤ 0xFFF := by decide

theorem witness_DrawTwiceRestoresTheScreen :
    (14 : Nibble) ≠ 15 ∧ (0 : Nibble) ≠ 15 ∧
      ((1 : Nibble).toNat = 0 ∨ dot.i.toNat + (1 : Nibble).toNat - 1 ≤ 0xFFF) := by decide

/-- The last key and the first value above it. -/
theorem witness_KeySkipsTestTheLatch :
    ((regs [(1, 0x0F)] .reset).reg 1).toNat ≤ 0x0F ∧ 0x0F < ((regs [(1, 0x10)] .reset).reg 1).toNat := by decide

/-- No key; wait-for-key at pc; key 0; key 15. -/
theorem witness_WaitForKeyTakesTheLowestKey :
    (∀ k, k < 16 → State.reset.keyDown k = false) ∧
      (∀ k, k < 16 → (placed 0xF30A).keyDown k = false) ∧ (placed 0xF30A).status ≠ .halted ∧
      InstrAtPc (placed 0xF30A) (.ldVxK 3) ∧
      ((setKeys 1 .reset).keyDown 0 = true ∧ ∀ j, j < 0 → (setKeys 1 .reset).keyDown j = false) ∧
      ((setKeys 0x8000 .reset).keyDown 15 = true ∧ ∀ j, j < 15 → (setKeys 0x8000 .reset).keyDown j = false) :=
  ⟨by decide, by decide, by decide, ⟨0xF30A, by decide, rfl⟩, by decide, by decide⟩

theorem witness_SysIsCountedNop :
    (0x0E1 : Addr) ≠ 0x0E0 ∧ (0x0E1 : Addr) ≠ 0x0EE ∧ (placed 0x00E1).status ≠ .halted ∧
      fetch (placed 0x00E1) = some 0x00E1 ∧ decodeWord 0x00E1 = .ok (.sys 0x0E1) :=
  ⟨by decide, by decide, by decide, by decide, rfl⟩

/-- Each timer changes. -/
theorem witness_OnlyTimerInstructionsChangeTimers :
    (∃ t, exec (.ldDtVx 5) (regs [(5, 1)] .reset) = .next t ∧ t.dt ≠ (regs [(5, 1)] .reset).dt) ∧
      (∃ t, exec (.ldStVx 5) (regs [(5, 1)] .reset) = .next t ∧ t.st ≠ (regs [(5, 1)] .reset).st) :=
  ⟨⟨_, rfl, by decide⟩, ⟨_, rfl, by decide⟩⟩

theorem witness_OnlyStoresChangeMemory :
    (∃ t, exec (.ldB 1) (regs [(1, 9)] (State.reset.setI 0xFFD)) = .next t ∧
      Memory.read t.mem 0xFFF ≠ Memory.read (regs [(1, 9)] (State.reset.setI 0xFFD)).mem 0xFFF) ∧
      (∃ t, exec (.dump 0) (regs [(0, 9)] (State.reset.setI 0xFFF)) = .next t ∧
        Memory.read t.mem 0xFFF ≠ Memory.read (regs [(0, 9)] (State.reset.setI 0xFFF)).mem 0xFFF) :=
  ⟨⟨_, rfl, by decide⟩, ⟨_, rfl, by decide⟩⟩

theorem witness_OnlyFiveInstructionsChangeI :
    ∃ t, exec (.load 0) .reset = .next t ∧ t.i ≠ State.reset.i := ⟨_, rfl, by decide⟩

theorem witness_OnlyFlagWritersAndDestinationsChangeVF :
    (∃ t, exec (.addReg 1 2) (regs [(1, 0xF0), (2, 0x20)] .reset) = .next t ∧
      t.reg 15 ≠ (regs [(1, 0xF0), (2, 0x20)] .reset).reg 15) ∧
      (∃ t, exec (.ldImm 15 7) .reset = .next t ∧ t.reg 15 ≠ State.reset.reg 15) :=
  ⟨⟨_, rfl, by decide⟩, ⟨_, rfl, by decide⟩⟩

/-- `dirty` set before an instruction that is no display instruction; the screen changed by a draw; `dirty` set by CLS. -/
theorem witness_OnlyDisplayInstructionsPaint :
    (∃ t, exec (.ldImm 0 5) { State.reset with dirty := true } = .next t ∧
      ({ State.reset with dirty := true } : State).dirty = true) ∧
      (∃ t, exec (.drw 0 0 1) dot = .next t ∧ t.fb ≠ dot.fb) ∧
      (∃ t, exec .cls .reset = .next t ∧ t.dirty ≠ State.reset.dirty) :=
  ⟨⟨_, rfl, rfl⟩, ⟨_, rfl, by decide⟩, ⟨_, rfl, by decide⟩⟩

/-- T-FLOW-5. -/
theorem witness_SettledStepChangesNothing : SettledAt (placed 0x1200) 0x200 := ⟨rfl, rfl, 0x1200, by decide, rfl⟩

/-- The state after T-FLOW-2: halted, with its fault explained. -/
def halted : State := halts .stackUnderflow 0 (placed 0x00EE)

/-- The state after T-KEY-7. -/
def blocked : State := { placed 0xF30A with status := .blockedOnKey }

theorem witness_StepKeepsMemoryCanonical :
    MemCanonical (placed 0xF30A) ∧ step (placed 0xF30A) = .next blocked := by
  refine ⟨?_, rfl⟩
  unfold MemCanonical
  decide

theorem witness_StepKeepsPcBounded :
    PcBounded (at_ 0x10FE (stack 1 0 0x1000 .reset)) ∧
      ∃ t, step (at_ 0x10FE (stack 1 0 0x1000 .reset)) = .next t := by
  refine ⟨?_, _, rfl⟩
  unfold PcBounded
  decide

theorem witness_BlockedOnlyAtWaitForKey :
    BlockedAtWait blocked ∧ blocked.status = .blockedOnKey ∧ step blocked = .next blocked :=
  ⟨fun _ => ⟨3, 0xF30A, by decide, rfl⟩, rfl, rfl⟩

theorem witness_StepKeepsFaultExplained :
    FaultRecorded halted ∧ FaultExplained halted ∧ step halted = .next halted :=
  ⟨⟨fun _ => by decide, fun h => absurd rfl h⟩, ⟨by decide, rfl, 0x00EE, by decide, rfl⟩, rfl⟩

theorem witness_EveryScheduleKeepsTheInvariant : Inv halted := by
  refine ⟨?_, witness_StepKeepsFaultExplained.1, witness_StepKeepsFaultExplained.2.1, ?_, ?_⟩
  · unfold MemCanonical
    decide
  · unfold BlockedAtWait
    exact fun h => absurd h (by decide)
  · unfold PcBounded
    decide

end Sys2Proof.Tests
end

section
/-! SUPPORT. What an instruction can do, said once for all 35: the relations `Effect`, `Target` and `Raises` name the
three ways in which one ends (30_encoding.md R52), and `exec_ending` ties them to `exec`. Rules over all instructions
and invariants are then short case analyses of these relations. -/

namespace Sys2Proof.Machine

/-- What a completing instruction does to the state before its `pc` is written. `keep`, `reg` and `regFlag` hold of any
instruction: what writes nothing, or registers alone, needs no frame rule here. Every other case names its
instruction. -/
inductive Effect (s : State) : Instr → State → Prop
  | keep (i) : Effect s i s
  | reg (i x b) : Effect s i (s.setReg x b)
  | regFlag (i x b f) : Effect s i (s.setRegFlag x b f)
  | random (x kk b) : Effect s (.rnd x kk) (s.setReg x b).takeDraw
  | count (nnn) : Effect s (.sys nnn) s.countUnknown
  | clear (fb) : Effect s .cls (s.paint fb)
  | sprite (x y n fb f) : Effect s (.drw x y n) ((s.paint fb).setFlag f)
  | push (nnn) (h : s.sp.val < 16) :
      Effect s (.call nnn)
        { s with stack := s.stack.set s.sp.val (s.pc + 2#16) h, sp := ⟨s.sp.val + 1, by omega⟩ }
  | pop (h : 0 < s.sp.val) : Effect s .ret { s with sp := ⟨s.sp.val - 1, by omega⟩ }
  | delay (x) : Effect s (.ldDtVx x) (s.setDt (s.reg x))
  | sound (x) : Effect s (.ldStVx x) (s.setSt (s.reg x))
  | index (nnn) : Effect s (.ldI nnn) (s.setI (addrWord nnn))
  | addIndex (x) : Effect s (.addI x) (s.setI (s.i + byteWord (s.reg x)))
  | glyph (x d) : Effect s (.ldF x) (s.setI (glyphAddr d))
  | bcd (x) (h : rangeOk s.i 3 = true) :
      Effect s (.ldB x) (s.setMem (Memory.writeBytes s.mem s.i.toNat (bcdDigits (s.reg x))))
  | dump (x) (h : rangeOk s.i (runLength x) = true) :
      Effect s (.dump x) ((s.setMem (Memory.writeBytes s.mem s.i.toNat (regRun s x))).setI
        (s.i + BitVec.ofNat 16 (runLength x)))
  | load (x) (h : rangeOk s.i (runLength x) = true) :
      Effect s (.load x) ((s.setRegs (loadedRegs s x)).setI (s.i + BitVec.ofNat 16 (runLength x)))

/-- Where a completing instruction goes on (10_state.md R13). -/
inductive Target (s : State) : Instr → Word → Prop
  | next (i) : Target s i (s.pc + 2#16)
  | skip (i) : Target s i (s.pc + 4#16)
  | jump (nnn) : Target s (.jp nnn) (addrWord nnn)
  | call (nnn) : Target s (.call nnn) (addrWord nnn)
  | offset (nnn) : Target s (.jpV0 nnn) (addrWord nnn + byteWord (s.reg 0#4))
  | saved (k : Fin 16) (h : s.sp.val = k.val + 1) : Target s .ret s.stack[k]

/-- Which instruction raises which fault, on what condition and with what information (60_exceptions.md R112). The
fetch fault is no instruction's. -/
inductive Raises (s : State) : Instr → FaultCause → Word → Prop
  | call (nnn) (h : s.sp.val = 16) : Raises s (.call nnn) .stackOverflow s.spInfo
  | ret (h : s.sp.val = 0) : Raises s .ret .stackUnderflow s.spInfo
  | drw (x y n) (h : ¬ rangeOk s.i n.toNat = true) : Raises s (.drw x y n) .memReadRange s.i
  | load (x) (h : ¬ rangeOk s.i (runLength x) = true) : Raises s (.load x) .memReadRange s.i
  | bcd (x) (h : ¬ rangeOk s.i 3 = true) : Raises s (.ldB x) .memWriteRange s.i
  | dump (x) (h : ¬ rangeOk s.i (runLength x) = true) : Raises s (.dump x) .memWriteRange s.i
  | skp (x) (h : 0x0F < (s.reg x).toNat) : Raises s (.skp x) .keyIndexRange (byteWord (s.reg x))
  | sknp (x) (h : 0x0F < (s.reg x).toNat) : Raises s (.sknp x) .keyIndexRange (byteWord (s.reg x))
  | glyph (x) (h : 0x0F < (s.reg x).toNat) : Raises s (.ldF x) .glyphIndexRange (byteWord (s.reg x))

/-- The three ways in which an instruction ends (30_encoding.md R52). -/
inductive Ending (s : State) (i : Instr) : State → Prop
  | completes {u : State} {target : Word} (he : Effect s i u) (ht : Target s i target) : Ending s i (u.goTo target)
  | blocks (x : Nibble) (hi : i = .ldVxK x) : Ending s i s.block
  | faults {cause : FaultCause} {info : Word} (hr : Raises s i cause info) : Ending s i (s.raiseFault cause info)

variable {s t u : State} {i : Instr}

/-! ### What an effect leaves unchanged -/

theorem Effect.pc_eq (h : Effect s i u) : u.pc = s.pc := by cases h <;> rfl

theorem Effect.key_eq (h : Effect s i u) : u.key = s.key := by cases h <;> rfl

theorem Effect.faultRecord_eq (h : Effect s i u) :
    u.faultCause = s.faultCause ∧ u.faultPc = s.faultPc ∧ u.faultInfo = s.faultInfo := by
  cases h <;> exact ⟨rfl, rfl, rfl⟩

theorem Effect.dt_eq (h : Effect s i u) : u.dt = s.dt ∨ ∃ x, i = .ldDtVx x := by
  cases h
  case delay x => exact .inr ⟨x, rfl⟩
  all_goals exact .inl rfl

theorem Effect.st_eq (h : Effect s i u) : u.st = s.st ∨ ∃ x, i = .ldStVx x := by
  cases h
  case sound x => exact .inr ⟨x, rfl⟩
  all_goals exact .inl rfl

theorem Effect.i_eq (h : Effect s i u) :
    u.i = s.i ∨ (∃ nnn, i = .ldI nnn) ∨ ∃ x, i = .addI x ∨ i = .ldF x ∨ i = .dump x ∨ i = .load x := by
  cases h
  case index nnn => exact .inr (.inl ⟨nnn, rfl⟩)
  case addIndex x | glyph x _ | dump x _ | load x _ => exact .inr (.inr ⟨x, by simp⟩)
  all_goals exact .inl rfl

/-! ### Every instruction ends in one of the three ways -/

theorem Effect.ending_advance (h : Effect s i u) : Ending s i u.advance :=
  .completes h (h.pc_eq ▸ .next i)

theorem Ending.skipIf (c : Bool) : Ending s i (s.skipIf c) := by
  cases c
  · exact (Effect.keep i).ending_advance
  · exact .completes (.keep i) (.skip i)

/-- A byte is a key or glyph index, or is above 0x0F (92_eei_decisions.md D11, D12). -/
theorem hexIndex_cases (b : Byte) :
    (0x0F < b.toNat ∧ hexIndex b = none) ∨ hexIndex b = some b.toNat := by
  rcases Nat.lt_or_ge 0x0F b.toNat with h | h
  · exact .inl ⟨h, hexIndex_of_lt h⟩
  · exact .inr (hexIndex_of_le h)

theorem exec_ending (i : Instr) (s : State) : ∃ t, exec i s = .next t ∧ Ending s i t := by
  cases i
  case cls => exact ⟨_, rfl, (Effect.clear _).ending_advance⟩
  case sys => exact ⟨_, rfl, (Effect.count _).ending_advance⟩
  case jp nnn => exact ⟨_, rfl, .completes (.keep _) (.jump nnn)⟩
  case jpV0 nnn => exact ⟨_, rfl, .completes (.keep _) (.offset nnn)⟩
  case call nnn =>
    rcases s.push_cases (s.pc + 2#16) with ⟨h, hp⟩ | ⟨h, hp⟩ <;> simp only [exec, execCall, hp]
    · exact ⟨_, rfl, .faults (.call nnn h)⟩
    · exact ⟨_, rfl, .completes (.push nnn h) (.call nnn)⟩
  case ret =>
    rcases s.pop_cases with ⟨h, hp⟩ | ⟨h, hp⟩ <;> simp only [exec, execRet, hp]
    · exact ⟨_, rfl, .faults (.ret h)⟩
    · exact ⟨_, rfl, .completes (.pop h) (.saved ⟨s.sp.val - 1, by omega⟩ (by simp only; omega))⟩
  case seImm | sneImm | seReg | sneReg => exact ⟨_, rfl, .skipIf _⟩
  case ldImm | addImm | ldReg | orReg | andReg | xorReg | ldVxDt =>
    exact ⟨_, rfl, (Effect.reg _ _ _).ending_advance⟩
  case addReg | subReg | shr | subn | shl => exact ⟨_, rfl, (Effect.regFlag _ _ _ _).ending_advance⟩
  case rnd x kk => exact ⟨_, rfl, (Effect.random x kk _).ending_advance⟩
  case ldI nnn => exact ⟨_, rfl, (Effect.index nnn).ending_advance⟩
  case addI x => exact ⟨_, rfl, (Effect.addIndex x).ending_advance⟩
  case ldDtVx x => exact ⟨_, rfl, (Effect.delay x).ending_advance⟩
  case ldStVx x => exact ⟨_, rfl, (Effect.sound x).ending_advance⟩
  case ldVxK x =>
    simp only [exec, execLdVxK]
    cases lowestKey s
    · exact ⟨_, rfl, .blocks x rfl⟩
    · exact ⟨_, rfl, (Effect.reg _ x _).ending_advance⟩
  case skp x =>
    rcases hexIndex_cases (s.reg x) with ⟨h, hx⟩ | hx <;> simp only [exec, execSkp, hx]
    · exact ⟨_, rfl, .faults (.skp x h)⟩
    · exact ⟨_, rfl, .skipIf _⟩
  case sknp x =>
    rcases hexIndex_cases (s.reg x) with ⟨h, hx⟩ | hx <;> simp only [exec, execSknp, hx]
    · exact ⟨_, rfl, .faults (.sknp x h)⟩
    · exact ⟨_, rfl, .skipIf _⟩
  case ldF x =>
    rcases hexIndex_cases (s.reg x) with ⟨h, hx⟩ | hx <;> simp only [exec, execLdF, hx]
    · exact ⟨_, rfl, .faults (.glyph x h)⟩
    · exact ⟨_, rfl, (Effect.glyph x _).ending_advance⟩
  case drw x y n =>
    by_cases h : rangeOk s.i n.toNat = true
    · exact ⟨_, if_pos h, (Effect.sprite x y n _ _).ending_advance⟩
    · exact ⟨_, if_neg h, .faults (.drw x y n h)⟩
  case ldB x =>
    by_cases h : rangeOk s.i 3 = true
    · exact ⟨_, if_pos h, (Effect.bcd x h).ending_advance⟩
    · exact ⟨_, if_neg h, .faults (.bcd x h)⟩
  case dump x =>
    by_cases h : rangeOk s.i (runLength x) = true
    · exact ⟨_, if_pos h, (Effect.dump x h).ending_advance⟩
    · exact ⟨_, if_neg h, .faults (.dump x h)⟩
  case load x =>
    by_cases h : rangeOk s.i (runLength x) = true
    · exact ⟨_, if_pos h, (Effect.load x h).ending_advance⟩
    · exact ⟨_, if_neg h, .faults (.load x h)⟩

theorem ending_of_exec (h : exec i s = .next t) : Ending s i t := by
  obtain ⟨t', h', he⟩ := exec_ending i s
  cases h.symm.trans h'
  exact he

end Sys2Proof.Machine
end

section
/-! PROOFS. The frame rules over all instructions (00_scope.md R9): which instructions change the timers, and which
change I. A fault and a block change none of them; for a completion it is the frame of its effect. -/

namespace Sys2Proof.Machine

/-- Settles O48, by the frames of the effects. -/
theorem onlyTimerInstructionsChangeTimers : Obligations.OnlyTimerInstructionsChangeTimers := by
  intro i s t h
  cases ending_of_exec h with
  | completes he _ =>
    exact ⟨he.key_eq, fun hdt => he.dt_eq.resolve_left hdt, fun hst => he.st_eq.resolve_left hst⟩
  | blocks | faults => exact ⟨rfl, fun hdt => absurd rfl hdt, fun hst => absurd rfl hst⟩

/-- Settles O50, by the frame of the effects on I. -/
theorem onlyFiveInstructionsChangeI : Obligations.OnlyFiveInstructionsChangeI := by
  intro i s t h hi
  cases ending_of_exec h with
  | completes he _ => exact he.i_eq.resolve_left hi
  | blocks | faults => exact absurd rfl hi

end Sys2Proof.Machine
end

section
/-! PROOFS. The invariant under every move of every agent: each clause is kept by a Step, the moves of the
other agents but Reset touch nothing that it reads, and Reset establishes it. -/

namespace Sys2Proof.Machine

variable {s t u : State} {i : Instr}

/-! ### Memory stays canonical -/

theorem Effect.memCanonical (h : Effect s i u) (hm : MemCanonical s) : MemCanonical u := by
  cases h
  case bcd x hr =>
    exact Memory.writeBytes_wf _ (((rangeOk_iff _ _).mp hr).resolve_left (by decide)) hm
  case dump x hr =>
    refine Memory.writeBytes_wf _ ?_ hm
    rw [regRun_length]
    exact ((rangeOk_iff _ _).mp hr).resolve_left (Nat.succ_ne_zero _)
  all_goals exact hm

theorem exec_keeps_memCanonical (h : exec i s = .next t) (hm : MemCanonical s) : MemCanonical t := by
  cases ending_of_exec h with
  | completes he _ => exact he.memCanonical hm
  | blocks | faults => exact hm

theorem step_keeps_memCanonical (h : step s = .next t) (hm : MemCanonical s) : MemCanonical t := by
  rcases step_cases h with ⟨_, rfl⟩ | ⟨_, _, rfl⟩ | ⟨_, w, i, _, _, he⟩ | ⟨_, w, r, _, _, rfl⟩
  · exact hm
  · exact hm
  · exact exec_keeps_memCanonical he hm
  · exact hm

/-! ### pc and the return addresses stay bounded (10_state.md R13) -/

theorem add_toNat_of_fetchable {pc : Word} {k : Nat} (hpc : pc.toNat ≤ 0xFFE) (hk : k ≤ 4) :
    (pc + BitVec.ofNat 16 k).toNat = pc.toNat + k := by
  rw [BitVec.toNat_add, BitVec.toNat_ofNat]
  omega

theorem Target.toNat_le {target : Word} (h : Target s i target) (hpc : s.pc.toNat ≤ 0xFFE) (hb : PcBounded s) :
    target.toNat ≤ 0x10FE := by
  cases h
  case next => rw [add_toNat_of_fetchable hpc (by decide)]; omega
  case skip => rw [add_toNat_of_fetchable hpc (by decide)]; omega
  case jump nnn | call nnn => rw [addrWord_toNat]; omega
  case offset nnn =>
    have hr := (s.reg 0#4).isLt
    rw [BitVec.toNat_add, addrWord_toNat, byteWord_toNat]
    omega
  case saved k _ => exact (hb.2 k).trans (by decide)

theorem Effect.stack_le (h : Effect s i u) (hpc : s.pc.toNat ≤ 0xFFE) (hb : PcBounded s) (k : Fin 16) :
    (u.stack[k]).toNat ≤ 0x1000 := by
  cases h
  case push nnn hsp =>
    simp only [Fin.getElem_fin, Vector.getElem_set]
    split
    · rw [add_toNat_of_fetchable hpc (by decide)]; omega
    · exact hb.2 k
  all_goals exact hb.2 k

theorem exec_keeps_pcBounded (h : exec i s = .next t) (hpc : s.pc.toNat ≤ 0xFFE) (hb : PcBounded s) :
    PcBounded t := by
  cases ending_of_exec h with
  | completes he ht => exact ⟨ht.toNat_le hpc hb, he.stack_le hpc hb⟩
  | blocks | faults => exact hb

theorem step_keeps_pcBounded (h : step s = .next t) (hb : PcBounded s) : PcBounded t := by
  rcases step_cases h with ⟨_, rfl⟩ | ⟨_, _, rfl⟩ | ⟨_, w, i, hf, _, he⟩ | ⟨_, w, r, hf, _, rfl⟩
  · exact hb
  · exact hb
  · exact exec_keeps_pcBounded he (fetch_eq_some hf).1 hb
  · exact ⟨(Target.next .cls).toNat_le (fetch_eq_some hf).1 hb, hb.2⟩

/-! ### Blocked only at wait-for-key (10_state.md R20) -/

theorem exec_blockedAtWait (h : exec i s = .next t) (hi : InstrAtPc s i) : BlockedAtWait t := by
  intro hs
  cases ending_of_exec h with
  | completes => cases hs
  | blocks x hx => subst hx; exact ⟨x, hi⟩
  | faults => cases hs

theorem step_keeps_blockedAtWait (h : step s = .next t) (hb : BlockedAtWait s) : BlockedAtWait t := by
  rcases step_cases h with ⟨_, rfl⟩ | ⟨_, _, rfl⟩ | ⟨_, w, i, hf, hd, he⟩ | ⟨_, w, r, _, _, rfl⟩
  · exact hb
  · exact fun hs => nomatch hs
  · exact exec_blockedAtWait he ⟨w, hf, hd⟩
  · exact fun hs => nomatch hs

/-! ### The fault record (10_state.md R21, 60_exceptions.md R112, R113) -/

/-- No fault is recorded, and the engine is not halted. -/
def NoFaultYet (s : State) : Prop :=
  s.status ≠ .halted ∧ s.faultCause = .noFault ∧ s.faultPc = 0#16 ∧ s.faultInfo = 0#16

theorem FaultRecorded.noFaultYet (h : FaultRecorded s) (hs : s.status ≠ .halted) : NoFaultYet s :=
  ⟨hs, h.2 hs⟩

theorem NoFaultYet.recorded_explained (h : NoFaultYet s) : FaultRecorded s ∧ FaultExplained s := by
  obtain ⟨hs, hc, hinfo⟩ := h
  exact ⟨⟨fun hh => absurd hh hs, fun _ => ⟨hc, hinfo⟩⟩, by simp [FaultExplained, hc]⟩

theorem faultRecorded_raiseFault (s : State) {cause : FaultCause} (info : Word) (hc : cause ≠ .noFault) :
    FaultRecorded (s.raiseFault cause info) :=
  ⟨fun _ => ⟨hc, rfl⟩, fun hs => absurd rfl hs⟩

theorem Raises.cause_ne_noFault {cause : FaultCause} {info : Word} (h : Raises s i cause info) :
    cause ≠ .noFault := by
  cases h <;> decide

theorem lt_of_not_rangeOk {a : Word} {count : Nat} (h : ¬ rangeOk a count = true) :
    0 < count ∧ 0xFFF < a.toNat + count - 1 := by
  simp only [rangeOk, decide_eq_true_eq] at h
  omega

theorem State.spInfo_eq {n : Nat} (h : s.sp.val = n) : s.spInfo = BitVec.ofNat 16 n := by
  rw [State.spInfo, h]

theorem Raises.faultExplained {cause : FaultCause} {info : Word} (h : Raises s i cause info) (hi : InstrAtPc s i) :
    FaultExplained (s.raiseFault cause info) := by
  cases h with
  | call nnn h => exact ⟨h, State.spInfo_eq h, nnn, hi⟩
  | ret h => exact ⟨h, State.spInfo_eq h, hi⟩
  | drw x y n h => exact ⟨rfl, .inl ⟨x, y, n, hi, lt_of_not_rangeOk h⟩⟩
  | load x h => exact ⟨rfl, .inr ⟨x, hi, (lt_of_not_rangeOk h).2⟩⟩
  | bcd x h => exact ⟨rfl, .inl ⟨x, hi, (lt_of_not_rangeOk h).2⟩⟩
  | dump x h => exact ⟨rfl, .inr ⟨x, hi, (lt_of_not_rangeOk h).2⟩⟩
  | skp x h => exact ⟨x, .inl hi, h, byteWord_toNat _⟩
  | sknp x h => exact ⟨x, .inr hi, h, byteWord_toNat _⟩
  | glyph x h => exact ⟨x, hi, h, byteWord_toNat _⟩

/-- An instruction at pc leaves no fault recorded, or the one that it raised, explained. -/
theorem exec_faultExplained (h : exec i s = .next t) (hi : InstrAtPc s i) (hn : NoFaultYet s) :
    FaultRecorded t ∧ FaultExplained t := by
  obtain ⟨_, hc, hp, hinfo⟩ := hn
  cases ending_of_exec h with
  | completes he _ =>
    obtain ⟨hc', hp', hinfo'⟩ := he.faultRecord_eq
    exact NoFaultYet.recorded_explained ⟨nofun, hc'.trans hc, hp'.trans hp, hinfo'.trans hinfo⟩
  | blocks => exact NoFaultYet.recorded_explained ⟨nofun, hc, hp, hinfo⟩
  | faults hr => exact ⟨faultRecorded_raiseFault s _ hr.cause_ne_noFault, hr.faultExplained hi⟩

theorem step_keeps_faultExplained (h : step s = .next t) (hr : FaultRecorded s) (hx : FaultExplained s) :
    FaultRecorded t ∧ FaultExplained t := by
  rcases step_cases h with ⟨_, rfl⟩ | ⟨_, hpc, rfl⟩ | ⟨hs, w, i, hf, hd, he⟩ | ⟨hs, w, r, _, _, rfl⟩
  · exact ⟨hr, hx⟩
  · exact ⟨faultRecorded_raiseFault s _ (by decide), hpc, rfl⟩
  · exact exec_faultExplained he ⟨w, hf, hd⟩ (hr.noFaultYet hs)
  · exact NoFaultYet.recorded_explained ⟨nofun, hr.2 hs⟩

/-! ### The whole invariant, move by move -/

theorem step_keeps_inv (h : step s = .next t) (hi : Inv s) : Inv t := by
  obtain ⟨hm, hr, hx, hw, hb⟩ := hi
  obtain ⟨hr', hx'⟩ := step_keeps_faultExplained h hr hx
  exact ⟨step_keeps_memCanonical h hm, hr', hx', step_keeps_blockedAtWait h hw, step_keeps_pcBounded h hb⟩

theorem tick_keeps_inv (hi : Inv s) : Inv (tick s) := hi

theorem setKeys_keeps_inv (k : BitVec 16) (hi : Inv s) : Inv (setKeys k s) := hi

theorem ackDirty_keeps_inv (hi : Inv s) : Inv (ackDirty s) := hi

/-- The font lies below the program, and a program that Reset accepts ends at 0xFFF (20_memory.md R43). -/
theorem resetMemory_wf (font : Vector Byte 80) {program : List Byte} (h : program.length ≤ Config.progMaxLen) :
    Memory.wf (resetMemory font program) := by
  have hfont : Memory.wf (Memory.writeBytes [] 0 font.toList) :=
    Memory.writeBytes_wf _ (by rw [Vector.length_toList]; decide) Memory.wf_nil
  have hend : Config.progBase + program.length ≤ Config.memSize := Nat.add_le_add_left h Config.progBase
  exact Memory.writeBytes_wf _ hend hfont

theorem inv_resetWith (font : Vector Byte 80) {program : List Byte} (h : program.length ≤ Config.progMaxLen)
    (draws : Nat) : Inv (State.resetWith font program draws) := by
  obtain ⟨hr, hx⟩ : FaultRecorded (State.resetWith font program draws) ∧
      FaultExplained (State.resetWith font program draws) :=
    NoFaultYet.recorded_explained ⟨nofun, rfl, rfl, rfl⟩
  have hpc : (0x200#16).toNat ≤ 0x10FE := by decide
  exact ⟨resetMemory_wf font h, hr, hx, nofun, hpc, fun k => by
    simp [State.resetWith, State.reset]⟩

theorem perform_keeps_inv (font : Vector Byte 80) {m : Move} (h : perform font m s = .next t) (hi : Inv s) :
    Inv t := by
  cases m with
  | reset program =>
    simp only [perform, hostReset] at h
    split at h
    · cases h; exact inv_resetWith font ‹_› _
    · cases h
  | setKeys k => cases h; exact setKeys_keeps_inv k hi
  | step => exact step_keeps_inv h hi
  | tick => cases h; exact tick_keeps_inv hi
  | ackDirty => cases h; exact ackDirty_keeps_inv hi

theorem stateAfter_keeps_inv (font : Vector Byte 80) (m : Move) (hi : Inv s) : Inv (stateAfter font m s) := by
  unfold stateAfter
  split
  · exact perform_keeps_inv font ‹_› hi
  · exact hi
  · exact hi

/-- Settles O58, by induction on the schedule. -/
theorem everyScheduleKeepsTheInvariant : Obligations.EveryScheduleKeepsTheInvariant := by
  intro font ms
  induction ms with
  | nil => exact fun _ hi => hi
  | cons m ms ih => exact fun s hi => ih (stateAfter font m s) (stateAfter_keeps_inv font m hi)

end Sys2Proof.Machine
end

section
/-! PROOFS. The state's own invariants (10_state.md): the clauses of the machine's invariant, each kept by every Step on
its own, the values at reset, and the two rules on what changes VF and the framebuffer. -/

namespace Sys2Proof.Machine

variable {s t u : State} {i : Instr}

/-! ### Every Step keeps each clause -/

/-- Settles O55, by the bound on the targets of an instruction that was fetched. -/
theorem stepKeepsPcBounded : Obligations.StepKeepsPcBounded :=
  fun _ _ hb h => step_keeps_pcBounded h hb

/-- Settles O56: the one instruction that blocks is wait-for-key. -/
theorem blockedOnlyAtWaitForKey : Obligations.BlockedOnlyAtWaitForKey :=
  fun _ _ hb h => step_keeps_blockedAtWait h hb

/-- Settles O57, by the table of what each instruction raises. -/
theorem stepKeepsFaultExplained : Obligations.StepKeepsFaultExplained :=
  fun _ _ hr hx h => step_keeps_faultExplained h hr hx

/-! ### What changes VF (10_state.md R11) -/

/-- The instruction may write register `r`: as the destination that a field names, as the flag register of a
flag-writing instruction, or as one of the run `V[0]` to `V[x]` of a register-load. -/
def MayWrite (r : Nibble) : Instr → Prop
  | .ldImm x _ | .addImm x _ | .rnd x _ | .ldReg x _ | .orReg x _ | .andReg x _ | .xorReg x _ | .ldVxDt x
  | .ldVxK x => r = x
  | .addReg x _ | .subReg x _ | .shr x _ | .subn x _ | .shl x _ => r = regVF ∨ r = x
  | .drw _ _ _ => r = regVF
  | .load x => r.toNat ≤ x.toNat
  | _ => False

/-- The frame rule of the registers: an instruction leaves every other register as it was. -/
theorem exec_reg_of_not_mayWrite {r : Nibble} (h : exec i s = .next t) (hr : ¬ MayWrite r i) :
    t.reg r = s.reg r := by
  cases i
  case ldImm | addImm | rnd | ldReg | orReg | andReg | xorReg | ldVxDt =>
    cases h
    exact State.setReg_reg_ne s _ hr
  case addReg | subReg | shr | subn | shl =>
    obtain ⟨hvf, hx⟩ := not_or.mp hr
    cases h
    rw [State.advance_reg, State.setRegFlag_reg, if_neg hvf, if_neg hx]
  case ldVxK x =>
    simp only [exec, execLdVxK] at h
    split at h <;> cases h
    · rfl
    · exact State.setReg_reg_ne s _ hr
  case drw x y n =>
    simp only [exec, execDrw] at h
    split at h <;> cases h
    · exact (State.setFlag_reg _ _ r).trans (if_neg hr)
    · rfl
  case load x =>
    simp only [exec, execLoad] at h
    split at h <;> cases h
    · exact (loadedRegs_reg s x r).trans (if_neg hr)
    · rfl
  case call nnn =>
    simp only [exec, execCall] at h
    rcases s.push_cases (s.pc + 2#16) with ⟨_, hp⟩ | ⟨_, hp⟩ <;> rw [hp] at h <;> cases h <;> rfl
  case ret =>
    simp only [exec, execRet] at h
    rcases s.pop_cases with ⟨_, hp⟩ | ⟨_, hp⟩ <;> rw [hp] at h <;> cases h <;> rfl
  case seImm | sneImm | seReg | sneReg => cases h; exact State.skipIf_reg s _ r
  case skp | sknp =>
    simp only [exec, execSkp, execSknp] at h
    split at h <;> cases h
    · rfl
    · exact State.skipIf_reg s _ r
  case ldF | ldB | dump =>
    simp only [exec, execLdF, execLdB, execDump] at h
    split at h <;> cases h <;> rfl
  case cls | sys | jp | jpV0 | ldI | addI | ldDtVx | ldStVx => cases h; rfl

/-- A register-load reaches VF only as the last of all sixteen registers. -/
theorem eq_regVF_of_le {x : Nibble} (h : regVF.toNat ≤ x.toNat) : x = regVF := by
  have hx := x.isLt
  exact BitVec.eq_of_toNat_eq (Nat.le_antisymm (Nat.le_of_lt_succ hx) h)

/-- Settles O51: VF is a register that the instruction may write, and R11 lists those that may. -/
theorem onlyFlagWritersAndDestinationsChangeVF : Obligations.OnlyFlagWritersAndDestinationsChangeVF := by
  intro i s t h hne
  have hw : MayWrite regVF i := not_not.mp fun hn => hne (exec_reg_of_not_mayWrite h hn)
  cases i
  case addReg x y | subReg x y | shr x y | subn x y | shl x y => exact .inl ⟨x, y, by simp⟩
  case drw x y n => exact .inr (.inl ⟨x, y, n, rfl⟩)
  case ldImm x kk | addImm x kk | rnd x kk => cases hw; exact .inr (.inr (.inl ⟨kk, by simp⟩))
  case ldReg x y | orReg x y | andReg x y | xorReg x y =>
    cases hw
    exact .inr (.inr (.inr (.inl ⟨y, by simp⟩)))
  case ldVxDt | ldVxK => cases hw; simp
  case load x => cases eq_regVF_of_le hw; simp
  all_goals exact hw.elim

/-! ### What paints (10_state.md R18, R19) -/

theorem Effect.paints (h : Effect s i u) :
    (u.fb = s.fb ∧ u.dirty = s.dirty) ∨ u.dirty = true ∧ (i = .cls ∨ ∃ x y n, i = .drw x y n) := by
  cases h
  case clear => exact .inr ⟨rfl, .inl rfl⟩
  case sprite x y n _ _ => exact .inr ⟨rfl, .inr ⟨x, y, n, rfl⟩⟩
  all_goals exact .inl ⟨rfl, rfl⟩

/-- A fault and a block paint nothing, so what an instruction paints is what its effect does. -/
theorem exec_paints (h : exec i s = .next t) :
    (t.fb = s.fb ∧ t.dirty = s.dirty) ∨ t.dirty = true ∧ (i = .cls ∨ ∃ x y n, i = .drw x y n) := by
  cases ending_of_exec h with
  | completes he _ => exact he.paints
  | blocks | faults => exact .inl ⟨rfl, rfl⟩

/-- Settles O52, by what the effects do to the framebuffer and `dirty`. -/
theorem onlyDisplayInstructionsPaint : Obligations.OnlyDisplayInstructionsPaint := by
  intro i s t h
  rcases exec_paints h with ⟨hfb, hdirty⟩ | ⟨hdirty, hi⟩
  · exact ⟨fun hs => hdirty.trans hs, fun hne => absurd ⟨hfb, hdirty⟩ (not_and_or.mpr hne)⟩
  · exact ⟨fun _ => hdirty, fun _ => hi⟩

/-! ### The state after reset (10_state.md R26) -/

theorem resetValuesHold_reset : ResetValuesHold State.reset := by
  refine ⟨fun r => ?_, rfl, rfl, fun k => ?_, rfl, rfl, rfl, fun k _ => ?_, fun y x => ?_,
    rfl, rfl, rfl, rfl, rfl, rfl⟩
  · simp [State.reg, State.reset]
  · simp [State.reset]
  · simp [State.keyDown, State.reset]
  · exact blankFramebuffer_pixel y x

/-- Above the font an unlisted address reads as zero (20_memory.md R35). -/
theorem Memory.background_of_le {a : Nat} (h : 80 ≤ a) : Memory.background a = 0#8 :=
  dif_neg (Nat.not_lt.mpr h)

/-- Settles O13: the registers by their rules, the font byte by byte, and zero above it. -/
theorem resetStateIsTheSpecs : Obligations.ResetStateIsTheSpecs :=
  ⟨resetValuesHold_reset, by decide, by decide, fun _ h _ => Memory.background_of_le h⟩

theorem pcBounded_reset : PcBounded State.reset := by
  refine ⟨by decide, fun k => ?_⟩
  simp [State.reset]

/-- Settles O59: Memory lists nothing, no fault is recorded, and the engine is running at 0x200 with an empty stack. -/
theorem resetMeetsTheInvariant : Obligations.ResetMeetsTheInvariant := by
  obtain ⟨hr, hx⟩ : FaultRecorded State.reset ∧ FaultExplained State.reset :=
    NoFaultYet.recorded_explained ⟨nofun, rfl, rfl, rfl⟩
  exact ⟨Memory.wf_nil, hr, hx, nofun, pcBounded_reset⟩

end Sys2Proof.Machine
end

section
/-! PROOFS. Memory and the fetch from it (20_memory.md): Memory stays in its canonical form, only the two stores change
it, the word stored at pc is the word fetched, and above 0xFFE there is no fetch. -/

namespace Sys2Proof.Machine

variable {s t u : State} {i : Instr} {w : Word}

/-! ### What changes Memory (R30, R31, R38) -/

/-- Settles O54: a Step writes Memory only by an instruction whose range check bounds the addresses that it writes. -/
theorem stepKeepsMemoryCanonical : Obligations.StepKeepsMemoryCanonical :=
  fun _ _ hm h => step_keeps_memCanonical h hm

theorem Effect.mem_eq (h : Effect s i u) : u.mem = s.mem ∨ ∃ x, i = .ldB x ∨ i = .dump x := by
  cases h
  case bcd x _ => exact .inr ⟨x, .inl rfl⟩
  case dump x _ => exact .inr ⟨x, .inr rfl⟩
  all_goals exact .inl rfl

theorem exec_mem_eq (h : exec i s = .next t) : t.mem = s.mem ∨ ∃ x, i = .ldB x ∨ i = .dump x := by
  cases ending_of_exec h with
  | completes he _ => exact he.mem_eq
  | blocks | faults => exact .inl rfl

/-- Settles O49: the effect of every instruction but the two stores keeps the whole of Memory. -/
theorem onlyStoresChangeMemory : Obligations.OnlyStoresChangeMemory := by
  intro i s t a h hne
  exact (exec_mem_eq h).resolve_left fun hm => hne (by rw [hm])

/-! ### The Step, by what it fetches (30_encoding.md R52) -/

theorem engineHalted_eq_false (hs : s.status ≠ .halted) : engineHalted s = false :=
  Bool.eq_false_iff.mpr fun hh => hs ((engineHalted_iff s).mp hh)

theorem step_of_fetch_none (hs : s.status ≠ .halted) (hf : fetch s = none) : step s = .next (fetchFault s) := by
  simp [step, engineHalted_eq_false hs, hf]

theorem step_of_fetch_some (hs : s.status ≠ .halted) (hf : fetch s = some w) : step s = runWord w s := by
  simp [step, engineHalted_eq_false hs, hf]

theorem runWord_of_decodes (hd : decodeWord w = .ok i) : runWord w s = exec i s := by
  simp [runWord, hd]

theorem stepReport_of_fetch_none (hs : s.status ≠ .halted) (hf : fetch s = none) :
    stepReport s = some (.halted .fetchRange) := by
  simp [stepReport, engineHalted_eq_false hs, hf]

/-! ### The word stored at pc (R32, R40) -/

/-- The word that the opcode table numbers `w` over `nbits` bits. -/
def tableWord (nbits w : Nat) : Word := BitVec.ofNat 16 (w % 2 ^ nbits)

theorem tableBytes_eq (nbits w : Nat) :
    tableBytes nbits w = [highByte (tableWord nbits w), lowByte (tableWord nbits w)] := rfl

theorem decodeWord_tableWord {nbits w : Nat} (h : decodeTableWord nbits w = some i) :
    decodeWord (tableWord nbits w) = .ok i := by
  simp only [decodeTableWord, tableBytes_eq, decodeBytes, wordOfBytes_bytes] at h
  cases hd : decodeWord (tableWord nbits w) with
  | ok j => rw [hd] at h; cases h; rfl
  | error r => rw [hd] at h; cases h

theorem withFetchWord_eq (hpc : s.pc.toNat ≤ 0xFFE) (nbits w : Nat) :
    s.withFetchWord nbits w = s.setMem (Memory.writeBytes s.mem s.pc.toNat (tableBytes nbits w)) :=
  if_pos hpc

theorem fetch_of_le (hpc : s.pc.toNat ≤ 0xFFE) :
    fetch s = some (wordOfBytes (Memory.read s.mem s.pc.toNat) (Memory.read s.mem (s.pc.toNat + 1))) :=
  if_pos hpc

/-- The word stored at pc is the word fetched, high byte at the lower address. -/
theorem fetch_withFetchWord (hpc : s.pc.toNat ≤ 0xFFE) (nbits w : Nat) :
    fetch (s.withFetchWord nbits w) = some (tableWord nbits w) := by
  have hhi : Memory.read (s.withFetchWord nbits w).mem s.pc.toNat = highByte (tableWord nbits w) := by
    rw [withFetchWord_eq hpc]
    exact Memory.read_writeBytes_of_lt s.mem (tableBytes nbits w) s.pc.toNat 0 (by decide : 0 < 2)
  have hlo : Memory.read (s.withFetchWord nbits w).mem (s.pc.toNat + 1) = lowByte (tableWord nbits w) := by
    rw [withFetchWord_eq hpc]
    exact Memory.read_writeBytes_of_lt s.mem (tableBytes nbits w) s.pc.toNat 1 (by decide : 1 < 2)
  have hpc' : (s.withFetchWord nbits w).pc = s.pc := by rw [withFetchWord_eq hpc, State.setMem_pc]
  rw [fetch_of_le (hpc'.symm ▸ hpc), hpc', hhi, hlo, wordOfBytes_bytes]

theorem withFetchWord_status (hpc : s.pc.toNat ≤ 0xFFE) (nbits w : Nat) :
    (s.withFetchWord nbits w).status = s.status := by
  rw [withFetchWord_eq hpc, State.setMem_status]

/-- Settles O12: the Step fetches the stored word, and the word decodes to the instruction. -/
theorem storedWordIsExecuted : Obligations.StoredWordIsExecuted := by
  intro s w i hs hpc _ hd
  have hs' : (s.withFetchWord 16 w).status ≠ .halted := by rwa [withFetchWord_status hpc]
  calc step (s.withFetchWord 16 w)
      = runWord (tableWord 16 w) (s.withFetchWord 16 w) := step_of_fetch_some hs' (fetch_withFetchWord hpc 16 w)
    _ = exec i (s.withFetchWord 16 w) := runWord_of_decodes (decodeWord_tableWord hd)

/-! ### The fetch above 0xFFE (R37) -/

/-- Fault entry writes the record and the status, and nothing else (60_exceptions.md R113). -/
theorem faultEntered_raiseFault (s : State) (cause : FaultCause) (info : Word) :
    FaultEntered cause info s (s.raiseFault cause info) := by
  refine ⟨rfl, rfl, rfl, rfl, fun p hp => ?_⟩
  cases p
  case faultCause | faultPc | faultInfo | status => exact absurd (by decide) hp
  case regs | mem => exact fun _ => rfl
  all_goals exact rfl

/-- Settles O7: there is no word to fetch, so the Step is the fetch fault, which is fault entry. -/
theorem fetchOutOfRangeFaults : Obligations.FetchOutOfRangeFaults := by
  intro s hs hpc
  have hf : fetch s = none := (fetch_eq_none s).mpr hpc
  exact ⟨hf, stepReport_of_fetch_none hs hf, _, step_of_fetch_none hs hf, faultEntered_raiseFault s _ _⟩

end Sys2Proof.Machine
end

section
/-! PROOFS. The encoding and the Step around an instruction (30_encoding.md): decoder and encoder are inverse to each
other, the unknown encodings are the listed ones, and a Step runs the decoded word and reports how it ended. -/

namespace Sys2Proof

variable {w : Word} {i : Instr} {op x n : Nibble} {kk : Byte} {nnn : Addr} {r : DecodeReject}

/-! ### Decoding the encoding (R47, R49, R50) -/

theorem wellFormed_sys_iff : (Instr.sys nnn).WellFormed = true ↔ nnn ≠ 0x0E0#12 ∧ nnn ≠ 0x0EE#12 := by
  simp [Instr.WellFormed]

/-- What well-formedness of SYS is for: the decoder tries the two constants of family 0 first. -/
theorem decodeFamily0_of_wellFormed (hn : fieldNNN w = nnn) (hwf : (Instr.sys nnn).WellFormed = true) :
    decodeFamily0 w = .ok (.sys nnn) := by
  obtain ⟨hcls, hret⟩ := wellFormed_sys_iff.mp hwf
  rw [decodeFamily0, hn, if_neg hcls, if_neg hret]

/-- Settles O2: the decoder reads back the fields that the encoder wrote, row by row. -/
theorem decodeOfEncode : Obligations.DecodeOfEncode := by
  intro i hwf
  cases i
  case cls | ret => rfl
  case sys nnn =>
    have hop : fieldOp (wordA 0x0#4 nnn) = 0x0#4 := fieldOp_wordA _ _
    simp only [encode, decodeWord, hop]
    exact decodeFamily0_of_wellFormed (fieldNNN_wordA _ _) hwf
  case jp | call | ldI | jpV0 | seImm | sneImm | ldImm | addImm | rnd | seReg | sneReg | drw =>
    simp [encode, decodeWord]
  case ldReg | orReg | andReg | xorReg | addReg | subReg | shr | subn | shl =>
    simp [encode, decodeWord, decodeFamily8]
  case skp | sknp => simp [encode, decodeWord, decodeFamilyE]
  case ldVxDt | ldVxK | ldDtVx | ldStVx | addI | ldF | ldB | dump | load =>
    simp [encode, decodeWord, decodeFamilyF]

/-! ### Encoding what a word decodes to -/

theorem wordA_of_fieldOp (hop : fieldOp w = op) : wordA op (fieldNNN w) = w := by
  rw [← hop, wordA_fields]

theorem wordXK_of_fields (hop : fieldOp w = op) (hkk : fieldKK w = kk) : wordXK op (fieldX w) kk = w := by
  rw [← hop, ← hkk, wordXK_fields]

theorem wordXYN_of_fields (hop : fieldOp w = op) (hn : fieldN w = n) :
    wordXYN op (fieldX w) (fieldY w) n = w := by
  rw [← hop, ← hn, wordXYN_fields]

theorem encode_of_decodeFamily0 (hop : fieldOp w = 0x0#4) (h : decodeFamily0 w = .ok i) :
    i.WellFormed = true ∧ encode i = w := by
  unfold decodeFamily0 at h
  have hw : wordA 0x0#4 (fieldNNN w) = w := wordA_of_fieldOp hop
  split at h
  · next hcls => cases h; exact ⟨rfl, by rw [← hw, hcls]; rfl⟩
  · next hcls =>
    split at h
    · next hret => cases h; exact ⟨rfl, by rw [← hw, hret]; rfl⟩
    · next hret => cases h; exact ⟨wellFormed_sys_iff.mpr ⟨hcls, hret⟩, hw⟩

theorem encode_of_decodeFamily8 (hop : fieldOp w = 0x8#4) (h : decodeFamily8 w = .ok i) :
    i.WellFormed = true ∧ encode i = w := by
  unfold decodeFamily8 at h
  split at h <;> cases h
  all_goals exact ⟨rfl, wordXYN_of_fields hop ‹_›⟩

theorem encode_of_decodeFamilyE (hop : fieldOp w = 0xE#4) (h : decodeFamilyE w = .ok i) :
    i.WellFormed = true ∧ encode i = w := by
  unfold decodeFamilyE at h
  split at h <;> cases h
  all_goals exact ⟨rfl, wordXK_of_fields hop ‹_›⟩

theorem encode_of_decodeFamilyF (hop : fieldOp w = 0xF#4) (h : decodeFamilyF w = .ok i) :
    i.WellFormed = true ∧ encode i = w := by
  unfold decodeFamilyF at h
  split at h <;> cases h
  all_goals exact ⟨rfl, wordXK_of_fields hop ‹_›⟩

/-- Families 5 and 9: a zero low nibble is the row's, any other is rejected. -/
theorem fieldN_of_guarded_ok {j : Instr}
    (h : (if fieldN w = 0#4 then .ok j else .error (.unknown w) : Except DecodeReject Instr) = .ok i) :
    fieldN w = 0#4 ∧ j = i := by
  split at h
  · next hn => cases h; exact ⟨hn, rfl⟩
  · cases h

/-- The sixteenth family is the decoder's last arm. -/
theorem nibble_eq_F_of_ne : ∀ op : Nibble, op ≠ 0x0#4 → op ≠ 0x1#4 → op ≠ 0x2#4 → op ≠ 0x3#4 → op ≠ 0x4#4 →
    op ≠ 0x5#4 → op ≠ 0x6#4 → op ≠ 0x7#4 → op ≠ 0x8#4 → op ≠ 0x9#4 → op ≠ 0xA#4 → op ≠ 0xB#4 → op ≠ 0xC#4 →
    op ≠ 0xD#4 → op ≠ 0xE#4 → op = 0xF#4 := by
  intros
  bv_omega

/-- Settles O3: family by family, the word is made again of the fields that the decoder read. -/
theorem encodeOfDecode : Obligations.EncodeOfDecode := by
  intro w i h
  unfold decodeWord at h
  split at h
  case h_1 hop => exact encode_of_decodeFamily0 hop h
  case h_9 hop => exact encode_of_decodeFamily8 hop h
  case h_15 hop => exact encode_of_decodeFamilyE hop h
  case h_16 => exact encode_of_decodeFamilyF (by apply nibble_eq_F_of_ne <;> assumption) h
  case h_6 hop | h_10 hop => -- families 5 and 9
    obtain ⟨hn, rfl⟩ := fieldN_of_guarded_ok h
    exact ⟨rfl, wordXYN_of_fields hop hn⟩
  case h_2 hop | h_3 hop | h_11 hop | h_12 hop => cases h; exact ⟨rfl, wordA_of_fieldOp hop⟩
  case h_4 hop | h_5 hop | h_7 hop | h_8 hop | h_13 hop => cases h; exact ⟨rfl, wordXK_of_fields hop rfl⟩
  case h_14 hop => cases h; exact ⟨rfl, wordXYN_of_fields hop rfl⟩

/-! ### The words of no row (R51, 45_unknown.md R109) -/

theorem fieldOp_toNat (w : Word) : (fieldOp w).toNat = w.toNat / 0x1000 := by
  have := w.isLt
  simp only [fieldOp, BitVec.extractLsb'_toNat, Nat.shiftRight_eq_div_pow]
  omega

theorem fieldN_toNat (w : Word) : (fieldN w).toNat = w.toNat % 16 := by
  simp [fieldN]

theorem fieldKK_toNat (w : Word) : (fieldKK w).toNat = w.toNat % 256 := by
  simp [fieldKK]

theorem fieldNNN_toNat (w : Word) : (fieldNNN w).toNat = w.toNat % 0x1000 := by
  simp [fieldNNN]

theorem decodeFamily0_ne_error : decodeFamily0 w ≠ .error r := by
  unfold decodeFamily0
  split_ifs <;> nofun

theorem guarded_eq_error_iff {j : Instr} :
    (if fieldN w = 0#4 then .ok j else .error (.unknown w) : Except DecodeReject Instr) = .error r ↔
      w.toNat % 16 ≠ 0 ∧ r = .unknown w := by
  rw [← fieldN_toNat]
  split
  · next hn => simp [hn]
  · next hn =>
    have hn' : (fieldN w).toNat ≠ 0 := fun h => hn (BitVec.eq_of_toNat_eq h)
    simp [hn', eq_comm]

/-! In each of the next three proofs the last arm of the decoder is the one that rejects, and the arms before it, all
passed over, are the sub-opcodes that the family assigns. -/

theorem decodeFamily8_eq_error_iff :
    decodeFamily8 w = .error r ↔ w.toNat % 16 ∈ [8, 9, 0xA, 0xB, 0xC, 0xD, 0xF] ∧ r = .unknown w := by
  rw [← fieldN_toNat]
  unfold decodeFamily8
  split
  case h_10 =>
    have hn : (fieldN w).toNat ∈ [8, 9, 0xA, 0xB, 0xC, 0xD, 0xF] := by
      simp only [imp_false, BitVec.toNat_eq, BitVec.toNat_ofNat, List.mem_cons] at *
      omega
    simp only [hn, true_and, Except.error.injEq, eq_comm]
  all_goals simp [*]

theorem decodeFamilyE_eq_error_iff :
    decodeFamilyE w = .error r ↔ w.toNat % 256 ∉ [0x9E, 0xA1] ∧ r = .unknown w := by
  rw [← fieldKK_toNat]
  unfold decodeFamilyE
  split
  case h_3 =>
    have hkk : (fieldKK w).toNat ∉ [0x9E, 0xA1] := by simp_all [BitVec.toNat_eq]
    simp only [hkk, not_false_eq_true, true_and, Except.error.injEq, eq_comm]
  all_goals simp [*]

theorem decodeFamilyF_eq_error_iff :
    decodeFamilyF w = .error r ↔
      w.toNat % 256 ∉ [0x07, 0x0A, 0x15, 0x18, 0x1E, 0x29, 0x33, 0x55, 0x65] ∧ r = .unknown w := by
  rw [← fieldKK_toNat]
  unfold decodeFamilyF
  split
  case h_10 =>
    have hkk : (fieldKK w).toNat ∉ [0x07, 0x0A, 0x15, 0x18, 0x1E, 0x29, 0x33, 0x55, 0x65] := by
      simp_all [BitVec.toNat_eq]
    simp only [hkk, not_false_eq_true, true_and, Except.error.injEq, eq_comm]
  all_goals simp [*]

/-- A word of the five families that R109 lists, in its order. -/
def HasNoRow (w : Word) : Prop :=
  (w.toNat / 0x1000 = 5 ∧ w.toNat % 16 ≠ 0) ∨
  (w.toNat / 0x1000 = 9 ∧ w.toNat % 16 ≠ 0) ∨
  (w.toNat / 0x1000 = 8 ∧ w.toNat % 16 ∈ [8, 9, 0xA, 0xB, 0xC, 0xD, 0xF]) ∨
  (w.toNat / 0x1000 = 0xE ∧ w.toNat % 256 ∉ [0x9E, 0xA1]) ∨
  (w.toNat / 0x1000 = 0xF ∧ w.toNat % 256 ∉ [0x07, 0x0A, 0x15, 0x18, 0x1E, 0x29, 0x33, 0x55, 0x65])

/-- The decoder rejects exactly the words of no row, and by name. -/
theorem decodeWord_eq_error_iff : decodeWord w = .error r ↔ HasNoRow w ∧ r = .unknown w := by
  rw [HasNoRow, ← fieldOp_toNat]
  unfold decodeWord
  split
  case h_1 hop => simp [hop, decodeFamily0_ne_error]
  case h_6 hop | h_10 hop => simp [hop, guarded_eq_error_iff] -- families 5 and 9
  case h_9 hop => simp [hop, decodeFamily8_eq_error_iff]
  case h_15 hop => simp [hop, decodeFamilyE_eq_error_iff]
  case h_16 =>
    have hop : fieldOp w = 0xF#4 := by apply nibble_eq_F_of_ne <;> assumption
    simp [hop, decodeFamilyF_eq_error_iff]
  all_goals simp [*]

/-! ### The unknown encodings (R51) -/

theorem wordA_zero_toNat (nnn : Addr) : (wordA 0x0#4 nnn).toNat = nnn.toNat := by
  simpa [wordA] using nnn.isLt.trans (by decide)

/-- The words of SYS, by the round trip in both directions. -/
theorem decodeWord_sys_iff :
    (∃ nnn, decodeWord w = .ok (.sys nnn)) ↔ w.toNat < 0x1000 ∧ w.toNat ≠ 0x0E0 ∧ w.toNat ≠ 0x0EE := by
  constructor
  · rintro ⟨nnn, h⟩
    obtain ⟨hwf, rfl⟩ := encodeOfDecode w _ h
    rw [wellFormed_sys_iff, ne_eq, ne_eq, BitVec.toNat_eq, BitVec.toNat_eq] at hwf
    rw [encode, wordA_zero_toNat]
    exact ⟨nnn.isLt, hwf⟩
  · rintro ⟨hlt, hne⟩
    have hop : fieldOp w = 0x0#4 := BitVec.eq_of_toNat_eq <| by
      rw [fieldOp_toNat, Nat.div_eq_of_lt hlt, BitVec.toNat_zero]
    have hw : encode (.sys (fieldNNN w)) = w := wordA_of_fieldOp hop
    have hwf : (Instr.sys (fieldNNN w)).WellFormed = true := by
      rw [wellFormed_sys_iff, ne_eq, ne_eq, BitVec.toNat_eq, BitVec.toNat_eq, fieldNNN_toNat, Nat.mod_eq_of_lt hlt]
      exact hne
    exact ⟨_, (congrArg decodeWord hw).symm.trans (decodeOfEncode _ hwf)⟩

theorem isUnknownWord_iff :
    Machine.isUnknownWord w = true ↔ (∃ nnn, decodeWord w = .ok (.sys nnn)) ∨ ∃ r, decodeWord w = .error r := by
  unfold Machine.isUnknownWord
  split <;> simp_all

/-- Settles O4: an unknown encoding is a word of SYS or of no row. -/
theorem unknownWordsAreTheListed : Obligations.UnknownWordsAreTheListed := by
  intro w
  have hrow : (∃ r, decodeWord w = .error r) ↔ HasNoRow w := by simp [decodeWord_eq_error_iff]
  rw [isUnknownWord_iff, decodeWord_sys_iff, hrow]
  exact or_congr_right (or_congr_right or_left_comm)

/-- Settles O1, by evaluation: the words are fixed. -/
theorem knownWordsDecode : Obligations.KnownWordsDecode :=
  ⟨by decide, by decide⟩

end Sys2Proof

namespace Sys2Proof.Machine

variable {s t : State} {w : Word}

/-! ### The Step runs the decoded word (R52) -/

/-- Settles O5: pc is in the fetch range, so the two bytes are the word fetched. -/
theorem stepRunsTheDecodedInstruction : Obligations.StepRunsTheDecodedInstruction := by
  intro s i hs hpc hd
  rw [step_of_fetch_some hs (fetch_of_le hpc), runWord_of_decodes hd]

theorem runWord_answers_next (w : Word) (s : State) : ∃ t, runWord w s = .next t := by
  unfold runWord
  split
  · next i _ =>
    obtain ⟨t, h, _⟩ := exec_ending i s
    exact ⟨t, h⟩
  · exact ⟨_, rfl⟩

/-- Settles O8: each arm of the Step answers a next state, every instruction by `exec_ending`. -/
theorem stepAlwaysAnswersNext : Obligations.StepAlwaysAnswersNext := by
  intro s
  unfold step
  split
  · exact ⟨_, rfl⟩
  · split
    · exact ⟨_, rfl⟩
    · exact runWord_answers_next _ s

/-! ### The report (R52) -/

theorem stepReport_of_fetch_some (hs : s.status ≠ .halted) (hf : fetch s = some w) (ht : step s = .next t) :
    stepReport s = some (reportOf w t) := by
  simp [stepReport, engineHalted_eq_false hs, hf, ht]

/-- Settles O11: the fetch fault leaves HALTED and is reported so; a Step that ran a word reports by the status it
left. -/
theorem reportNamesTheEnding : Obligations.ReportNamesTheEnding := by
  intro s t hs ht
  cases hf : fetch s with
  | none =>
    obtain rfl : fetchFault s = t := Host.Outcome.next.inj ((step_of_fetch_none hs hf).symm.trans ht)
    exact ⟨fun _ => stepReport_of_fetch_none hs hf, nofun, nofun⟩
  | some w =>
    rw [stepReport_of_fetch_some hs hf ht]
    refine ⟨fun h => ?_, fun h => ?_, fun h => ⟨w, rfl, ?_⟩⟩ <;> rw [reportOf, h]

end Sys2Proof.Machine
end

section
/-! PROOFS. Control transfer (40_flow.md): the two jumps, call and return, and the four compare-and-skips. The decoding
clause of each is `decodeOfEncode` at the instruction. -/

namespace Sys2Proof.Machine

variable {s t u : State} {i : Instr} {parts parts' : List Part}

/-! ### Frames of the operations that end an instruction (00_scope.md R9) -/

theorem Part.same_trans {p : Part} (hst : p.same s t) (htu : p.same t u) : p.same s u := by
  cases p
  case regs | mem => exact fun a => (htu a).trans (hst a)
  all_goals exact htu.trans hst

theorem UnchangedExcept.trans (hst : UnchangedExcept parts s t) (htu : UnchangedExcept parts' t u) :
    UnchangedExcept (parts ++ parts') s u := fun p hp =>
  have hnot : p ∉ parts ∧ p ∉ parts' := not_or.mp (mt List.mem_append.mpr hp)
  Part.same_trans (hst p hnot.1) (htu p hnot.2)

/-- A listed piece that did not change need not be listed. -/
theorem UnchangedExcept.drop {p : Part} (h : UnchangedExcept (p :: parts) s t) (hp : p.same s t) :
    UnchangedExcept parts s t := by
  intro q hq
  by_cases hqp : q = p
  · exact hqp ▸ hp
  · exact h q (List.not_mem_cons_of_ne_of_not_mem hqp hq)

theorem unchangedExcept_goTo (s : State) (target : Word) :
    UnchangedExcept [.pc, .status] s (s.goTo target) := by
  intro p hp
  cases p
  case pc | status => exact absurd (by decide) hp
  case regs | mem => exact fun _ => rfl
  all_goals exact rfl

theorem UnchangedExcept.goTo (h : UnchangedExcept parts s u) (target : Word) :
    UnchangedExcept (parts ++ [.pc, .status]) s (u.goTo target) :=
  h.trans (unchangedExcept_goTo u target)

theorem unchangedExcept_skipIf (s : State) (c : Bool) : UnchangedExcept [.pc, .status] s (s.skipIf c) := by
  cases c <;> exact unchangedExcept_goTo s _

theorem unchangedExcept_stack_sp (s : State) (stack : Vector Word 16) (sp : Fin 17) :
    UnchangedExcept [.stack, .sp] s { s with stack := stack, sp := sp } := by
  intro p hp
  cases p
  case stack | sp => exact absurd (by decide) hp
  case regs | mem => exact fun _ => rfl
  all_goals exact rfl

theorem unchangedExcept_sp (s : State) (sp : Fin 17) : UnchangedExcept [.sp] s { s with sp := sp } :=
  (unchangedExcept_stack_sp s s.stack sp).drop rfl

/-! ### The jumps (R61, R64) -/

/-- Settles O15: the jump is `goTo` its operand. -/
theorem jumpSetsPc : Obligations.JumpSetsPc := fun nnn s =>
  ⟨decodeOfEncode (.jp nnn) rfl, _, rfl, addrWord_toNat nnn, rfl, unchangedExcept_goTo s _⟩

/-- The sum is below 2^16, so it is not wrapped (R64). -/
theorem addrWord_add_byteWord_toNat (nnn : Addr) (b : Byte) :
    (addrWord nnn + byteWord b).toNat = nnn.toNat + b.toNat := by
  have hn := nnn.isLt
  have hb := b.isLt
  rw [BitVec.toNat_add, addrWord_toNat, byteWord_toNat]
  omega

/-- Settles O16: the jump is `goTo` the sum, which is the sum as numbers. -/
theorem jumpWithOffsetAddsV0 : Obligations.JumpWithOffsetAddsV0 := fun nnn s =>
  ⟨decodeOfEncode (.jpV0 nnn) rfl, _, rfl, addrWord_add_byteWord_toNat nnn _, rfl, unchangedExcept_goTo s _⟩

/-! ### Call and return (R60, R63) -/

theorem exec_call_of_lt (nnn : Addr) (h : s.sp.val < 16) :
    exec (.call nnn) s = .next (State.goTo
      { s with stack := s.stack.set s.sp.val (s.pc + 2#16) h, sp := ⟨s.sp.val + 1, by omega⟩ }
      (addrWord nnn)) := by
  have hp : s.push (s.pc + 2#16) = some _ := dif_pos h
  simp only [exec, execCall, hp]

theorem exec_call_of_full (nnn : Addr) (h : s.sp.val = 16) :
    exec (.call nnn) s = .next (s.raiseFault .stackOverflow 16#16) := by
  have hp : s.push (s.pc + 2#16) = none := dif_neg (by omega)
  simp only [exec, execCall, hp, State.spInfo_eq h]

theorem exec_ret_of_held (k : Fin 16) (h : s.sp.val = k.val + 1) :
    exec .ret s = .next (State.goTo { s with sp := k.castSucc } s.stack[k]) := by
  have hp : s.pop = some (s.stack[k], { s with sp := k.castSucc }) := by
    simp [State.pop, h, Fin.ext_iff]
  simp only [exec, execRet, hp]

theorem exec_ret_of_empty (h : s.sp.val = 0) : exec .ret s = .next (s.raiseFault .stackUnderflow 0#16) := by
  have hp : s.pop = none := dif_neg (by omega)
  simp only [exec, execRet, hp, State.spInfo_eq h]

/-- Settles O17: a call below sixteen is a push and `goTo`, and with sixteen it is fault entry. -/
theorem callPushesReturnAddress : Obligations.CallPushesReturnAddress := by
  refine fun nnn s => ⟨decodeOfEncode (.call nnn) rfl, fun h => ?_, fun h => ?_⟩
  · refine ⟨_, exec_call_of_lt nnn h, fun k => ?_, rfl, addrWord_toNat nnn, rfl,
      (unchangedExcept_stack_sp s _ _).goTo _⟩
    simp [Vector.getElem_set, eq_comm]
  · exact ⟨_, exec_call_of_full nnn h, faultEntered_raiseFault s _ _⟩

/-- Settles O18: a return with an address held is a pop and `goTo`, and with none it is fault entry. -/
theorem returnPopsReturnAddress : Obligations.ReturnPopsReturnAddress := by
  refine fun s => ⟨decodeOfEncode .ret rfl, fun k h => ?_, fun h => ?_⟩
  · exact ⟨_, exec_ret_of_held k h, rfl, rfl, rfl, (unchangedExcept_sp s _).goTo _⟩
  · exact ⟨_, exec_ret_of_empty h, faultEntered_raiseFault s _ _⟩

/-- Settles O19: the return pops the slot that the call wrote (R63, then R60). -/
theorem returnLandsAfterTheCall : Obligations.ReturnLandsAfterTheCall := by
  intro nnn s h
  obtain ⟨-, hcall, -⟩ := callPushesReturnAddress nnn s
  obtain ⟨t, ht, hslots, hsp, -⟩ := hcall h
  refine ⟨t, ht, fun u hstack husp => ?_⟩
  obtain ⟨-, hret, -⟩ := returnPopsReturnAddress u
  obtain ⟨w, hw, hwsp, hwpc, -⟩ := hret ⟨s.sp.val, h⟩ (by rw [husp, hsp])
  refine ⟨w, hw, ?_, Fin.ext hwsp⟩
  calc w.pc = t.stack[(⟨s.sp.val, h⟩ : Fin 16)] := by rw [hwpc, hstack]
    _ = s.pc + 2#16 := (hslots _).trans (if_pos rfl)

/-! ### The compare-and-skips (R65 to R68) -/

/-- An instruction that is `skipIf` a test of `p` skips exactly when `p` holds, and changes nothing else (R62). -/
theorem skips_of_exec_eq {c : Bool} {p : Prop} [Decidable p] (hexec : exec i s = .next (s.skipIf c))
    (hc : c = true ↔ p) :
    ∃ t, exec i s = .next t ∧ t.pc = (if p then s.pc + 4#16 else s.pc + 2#16) ∧
      t.status = .running ∧ UnchangedExcept [.pc, .status] s t :=
  ⟨_, hexec, by rw [State.skipIf_pc, if_congr hc rfl rfl], State.skipIf_status s c, unchangedExcept_skipIf s c⟩

/-- Settles O20: the two tests are `==` and `!=` on the immediate. -/
theorem skipsOnImmediate : Obligations.SkipsOnImmediate := fun x kk _ =>
  ⟨decodeOfEncode (.seImm x kk) rfl, decodeOfEncode (.sneImm x kk) rfl,
    skips_of_exec_eq rfl beq_iff_eq, skips_of_exec_eq rfl bne_iff_ne⟩

/-- Settles O21: the two tests are `==` and `!=` on the two registers. -/
theorem skipsOnRegisters : Obligations.SkipsOnRegisters := fun x y _ =>
  ⟨decodeOfEncode (.seReg x y) rfl, decodeOfEncode (.sneReg x y) rfl,
    skips_of_exec_eq rfl beq_iff_eq, skips_of_exec_eq rfl bne_iff_ne⟩

end Sys2Proof.Machine
end

section
/-! PROOFS. Register arithmetic, logic, shifts and random (41_alu.md). Each instruction writes one register, or one
register and then the flag, and advances; what is left to each statement is the value written. -/

namespace Sys2Proof.Machine

variable {s : State} {i : Instr} {x : Nibble} {b : Byte} {f : Bool}

/-! ### What a register write changes and what it leaves unchanged -/

theorem unchangedExcept_setRegs (s : State) (v : Vector Byte 16) : UnchangedExcept [.regs] s (s.setRegs v) := by
  intro p hp
  cases p
  case regs => exact absurd (by decide) hp
  case mem => exact fun _ => rfl
  all_goals exact rfl

theorem unchangedExcept_takeDraw (s : State) : UnchangedExcept [.draws] s s.takeDraw := by
  intro p hp
  cases p
  case draws => exact absurd (by decide) hp
  case regs | mem => exact fun _ => rfl
  all_goals exact rfl

theorem unchangedExcept_setReg (s : State) (x : Nibble) (b : Byte) : UnchangedExcept [.regs] s (s.setReg x b) :=
  unchangedExcept_setRegs s _

theorem unchangedExcept_setRegFlag (s : State) (x : Nibble) (b : Byte) (f : Bool) :
    UnchangedExcept [.regs] s (s.setRegFlag x b f) :=
  unchangedExcept_setRegs s _

theorem regsUnchangedExcept_setReg (s : State) (x : Nibble) (b : Byte) : RegsUnchangedExcept [x] s (s.setReg x b) :=
  fun _ hr => State.setReg_reg_ne s b (List.ne_of_not_mem_cons hr)

theorem regsUnchangedExcept_setRegFlag (s : State) (x : Nibble) (b : Byte) (f : Bool) :
    RegsUnchangedExcept [x, regVF] s (s.setRegFlag x b f) := by
  intro r hr
  obtain ⟨hx, hvf⟩ : r ≠ x ∧ r ≠ regVF := by simpa using hr
  rw [State.setRegFlag_reg, if_neg hvf, if_neg hx]

/-- An instruction that writes one register and advances. -/
theorem writesReg_of_exec_eq (hexec : exec i s = .next (s.setReg x b).advance) :
    ∃ t, exec i s = .next t ∧ t.reg x = b ∧ RegsUnchangedExcept [x] s t ∧ t.pc = s.pc + 2#16 ∧
      t.status = .running ∧ UnchangedExcept [.regs, .pc, .status] s t :=
  ⟨_, hexec, State.setReg_reg_self s x b, regsUnchangedExcept_setReg s x b, rfl, rfl,
    (unchangedExcept_setReg s x b).goTo _⟩

/-- An instruction that writes a result, then the flag, and advances: the flag stands in VF for every x, and the result
is lost when x is 15 (R70). -/
theorem writesRegFlag_of_exec_eq (hexec : exec i s = .next (s.setRegFlag x b f).advance) :
    ∃ t, exec i s = .next t ∧ t.reg 15 = flagByte f ∧ (x ≠ 15 → t.reg x = b) ∧ RegsUnchangedExcept [x, 15] s t ∧
      t.pc = s.pc + 2#16 ∧ t.status = .running ∧ UnchangedExcept [.regs, .pc, .status] s t := by
  refine ⟨_, hexec, ?_, fun hx => ?_, regsUnchangedExcept_setRegFlag s x b f, rfl, rfl,
    (unchangedExcept_setRegFlag s x b f).goTo _⟩
  · exact (State.setRegFlag_reg s x regVF b f).trans (if_pos rfl)
  · exact (State.setRegFlag_reg s x x b f).trans ((if_neg hx).trans (if_pos rfl))

/-! ### The values written, as numbers -/

theorem flagByte_decide (p : Prop) [Decidable p] : flagByte (decide p) = if p then 1#8 else 0#8 :=
  if_congr decide_eq_true_iff rfl rfl

theorem flagByte_toNat (f : Bool) : (flagByte f).toNat = f.toNat := by cases f <;> rfl

theorem shiftOutRight_toNat (a : Byte) : (shiftOutRight a).toNat = a.toNat % 2 := by
  rw [shiftOutRight, ← BitVec.testBit_toNat, Nat.toNat_testBit, Nat.pow_zero, Nat.div_one]

theorem shiftOutLeft_toNat (a : Byte) : (shiftOutLeft a).toNat = a.toNat / 128 := by
  have ha := a.isLt
  rw [shiftOutLeft, ← BitVec.testBit_toNat, Nat.toNat_testBit]
  omega

/-- The difference modulo 256, without going below zero. -/
theorem byte_sub_toNat (a c : Byte) : (a - c).toNat = (a.toNat + 256 - c.toNat) % 256 := by
  have hc := c.isLt
  rw [BitVec.toNat_sub]
  omega

theorem byte_shiftRight_one_toNat (a : Byte) : (a >>> 1).toNat = a.toNat / 2 := by
  rw [BitVec.toNat_ushiftRight, Nat.shiftRight_eq_div_pow, Nat.pow_one]

theorem byte_shiftLeft_one_toNat (a : Byte) : (a <<< 1).toNat = 2 * a.toNat % 256 := by
  rw [BitVec.toNat_shiftLeft, Nat.shiftLeft_eq, Nat.pow_one, Nat.mul_comm]

/-! ### The instructions that write a flag (R76 to R80) -/

/-- Settles O25: the flag is the test for a sum over 0xFF. -/
theorem addRegistersSetsCarry : Obligations.AddRegistersSetsCarry := by
  intro x y s
  obtain ⟨t, ht, hvf, hx, hframe⟩ := writesRegFlag_of_exec_eq (i := .addReg x y) (s := s) rfl
  exact ⟨decodeOfEncode (.addReg x y) rfl, t, ht, hvf.trans (flagByte_decide _),
    fun h => by rw [hx h, BitVec.toNat_add], hframe⟩

/-- Settles O26: the flag is the test that the minuend `V[x]` is at least `V[y]`. -/
theorem subtractSetsNotBorrow : Obligations.SubtractSetsNotBorrow := by
  intro x y s
  obtain ⟨t, ht, hvf, hx, hframe⟩ := writesRegFlag_of_exec_eq (i := .subReg x y) (s := s) rfl
  exact ⟨decodeOfEncode (.subReg x y) rfl, t, ht, hvf.trans (flagByte_decide _),
    fun h => by rw [hx h, byte_sub_toNat], hframe⟩

/-- Settles O27: as O26 with `V[y]` the minuend (90_conflicts.md C1). -/
theorem subtractReverseSetsNotBorrow : Obligations.SubtractReverseSetsNotBorrow := by
  intro x y s
  obtain ⟨t, ht, hvf, hx, hframe⟩ := writesRegFlag_of_exec_eq (i := .subn x y) (s := s) rfl
  exact ⟨decodeOfEncode (.subn x y) rfl, t, ht, hvf.trans (flagByte_decide _),
    fun h => by rw [hx h, byte_sub_toNat], hframe⟩

/-- Settles O28: the bit put out is the remainder of the halving. -/
theorem shiftRightSetsOldBitZero : Obligations.ShiftRightSetsOldBitZero := by
  intro x y s
  obtain ⟨t, ht, hvf, hx, hframe⟩ := writesRegFlag_of_exec_eq (i := .shr x y) (s := s) rfl
  exact ⟨decodeOfEncode (.shr x y) rfl, t, ht, by rw [hvf, flagByte_toNat, shiftOutRight_toNat],
    fun h => by rw [hx h, byte_shiftRight_one_toNat], hframe⟩

/-- Settles O29: the bit put out is the old value's quotient by 128. -/
theorem shiftLeftSetsOldBitSeven : Obligations.ShiftLeftSetsOldBitSeven := by
  intro x y s
  obtain ⟨t, ht, hvf, hx, hframe⟩ := writesRegFlag_of_exec_eq (i := .shl x y) (s := s) rfl
  exact ⟨decodeOfEncode (.shl x y) rfl, t, ht, by rw [hvf, flagByte_toNat, shiftOutLeft_toNat],
    fun h => by rw [hx h, byte_shiftLeft_one_toNat], hframe⟩

/-! ### The instructions that write one register and no flag (R71 to R75, R81, R82) -/

/-- Settles O22: the two loads write the immediate and the other register. -/
theorem loadsSetTheRegister : Obligations.LoadsSetTheRegister := fun x y kk _ =>
  ⟨decodeOfEncode (.ldImm x kk) rfl, decodeOfEncode (.ldReg x y) rfl, writesReg_of_exec_eq rfl,
    writesReg_of_exec_eq rfl⟩

/-- Settles O23: the sum of bytes is the sum modulo 256. -/
theorem addImmediateWrapsWithoutFlag : Obligations.AddImmediateWrapsWithoutFlag := by
  intro x kk s
  obtain ⟨t, ht, hx, hframe⟩ := writesReg_of_exec_eq (i := .addImm x kk) (s := s) rfl
  exact ⟨decodeOfEncode (.addImm x kk) rfl, t, ht, by rw [hx, BitVec.toNat_add], hframe⟩

/-- Settles O24: the three operations on bytes, read bit by bit. -/
theorem logicIsBitwiseWithoutFlag : Obligations.LogicIsBitwiseWithoutFlag := by
  refine fun x y s => ⟨decodeOfEncode (.orReg x y) rfl, decodeOfEncode (.andReg x y) rfl,
    decodeOfEncode (.xorReg x y) rfl, ?_, ?_, ?_⟩
  · obtain ⟨t, ht, hx, hframe⟩ := writesReg_of_exec_eq (i := .orReg x y) (s := s) rfl
    exact ⟨t, ht, fun k => by rw [hx, BitVec.getLsbD_or], hframe⟩
  · obtain ⟨t, ht, hx, hframe⟩ := writesReg_of_exec_eq (i := .andReg x y) (s := s) rfl
    exact ⟨t, ht, fun k => by rw [hx, BitVec.getLsbD_and], hframe⟩
  · obtain ⟨t, ht, hx, hframe⟩ := writesReg_of_exec_eq (i := .xorReg x y) (s := s) rfl
    exact ⟨t, ht, fun k => by rw [hx, BitVec.getLsbD_xor], hframe⟩

/-- Settles O30: the register takes the draw and the mask, and the counter of draws goes up. -/
theorem randomIsDrawAndMask : Obligations.RandomIsDrawAndMask := by
  intro x kk s
  have hx : (s.setReg x (s.draw &&& kk)).takeDraw.advance.reg x = s.draw &&& kk := State.setReg_reg_self s x _
  refine ⟨decodeOfEncode (.rnd x kk) rfl, _, rfl, hx, rfl, fun k hk => ?_, regsUnchangedExcept_setReg s x _, rfl, rfl,
    ((unchangedExcept_setReg s x _).trans (unchangedExcept_takeDraw _)).goTo _⟩
  rw [hx, BitVec.getLsbD_and, hk, Bool.and_false]

end Sys2Proof.Machine
end

section
/-! PROOFS. The address register and the memory transfers (42_index_memory.md). The three setters of I end in `setI` and
`advance`; each transfer is its completion or fault entry, as its range check says, and what is left to a completion is
what Memory or the registers then read. -/

namespace Sys2Proof.Machine

variable {s : State} {i : Instr} {x : Nibble} {a : Word}

/-! ### What a write of I or of Memory leaves unchanged -/

theorem unchangedExcept_setI (s : State) (a : Word) : UnchangedExcept [.index] s (s.setI a) := by
  intro p hp
  cases p
  case index => exact absurd (by decide) hp
  case regs | mem => exact fun _ => rfl
  all_goals exact rfl

theorem unchangedExcept_setMem (s : State) (m : Memory) : UnchangedExcept [.mem] s (s.setMem m) := by
  intro p hp
  cases p
  case mem => exact absurd (by decide) hp
  case regs => exact fun _ => rfl
  all_goals exact rfl

/-- An instruction that writes I and advances. -/
theorem writesIndex_of_exec_eq (hexec : exec i s = .next (s.setI a).advance) :
    ∃ t, exec i s = .next t ∧ t.i = a ∧ t.pc = s.pc + 2#16 ∧ t.status = .running ∧
      UnchangedExcept [.index, .pc, .status] s t :=
  ⟨_, hexec, rfl, rfl, rfl, (unchangedExcept_setI s a).goTo _⟩

/-! ### The transfers by their range check (20_memory.md R38) -/

/-- The range check of a run of one byte or more bounds the last address of the run. -/
theorem rangeOk_succ_iff (a : Word) (n : Nat) : rangeOk a (n + 1) = true ↔ a.toNat + n ≤ 0xFFF := by
  rw [rangeOk_iff, Config.memSize]
  omega

theorem not_rangeOk_succ {n : Nat} (h : 0xFFF < a.toNat + n) : ¬ rangeOk a (n + 1) = true := by
  rw [rangeOk_succ_iff]
  omega

theorem exec_ldB_of_le (h : s.i.toNat + 2 ≤ 0xFFF) :
    exec (.ldB x) s = .next (s.setMem (Memory.writeBytes s.mem s.i.toNat (bcdDigits (s.reg x)))).advance :=
  if_pos ((rangeOk_succ_iff s.i 2).mpr h)

theorem exec_ldB_of_lt (h : 0xFFF < s.i.toNat + 2) : exec (.ldB x) s = .next (s.raiseFault .memWriteRange s.i) :=
  if_neg (not_rangeOk_succ h)

theorem exec_dump_of_le (h : s.i.toNat + x.toNat ≤ 0xFFF) :
    exec (.dump x) s = .next ((s.setMem (Memory.writeBytes s.mem s.i.toNat (regRun s x))).setI
      (s.i + BitVec.ofNat 16 (runLength x))).advance :=
  if_pos ((rangeOk_succ_iff s.i x.toNat).mpr h)

theorem exec_dump_of_lt (h : 0xFFF < s.i.toNat + x.toNat) :
    exec (.dump x) s = .next (s.raiseFault .memWriteRange s.i) :=
  if_neg (not_rangeOk_succ h)

theorem exec_load_of_le (h : s.i.toNat + x.toNat ≤ 0xFFF) :
    exec (.load x) s = .next ((s.setRegs (loadedRegs s x)).setI (s.i + BitVec.ofNat 16 (runLength x))).advance :=
  if_pos ((rangeOk_succ_iff s.i x.toNat).mpr h)

theorem exec_load_of_lt (h : 0xFFF < s.i.toNat + x.toNat) :
    exec (.load x) s = .next (s.raiseFault .memReadRange s.i) :=
  if_neg (not_rangeOk_succ h)

/-! ### What the transfers write -/

/-- After a run that the range check lets through, I is not wrapped: at most 0x1000. -/
theorem add_runLength_toNat (h : a.toNat + x.toNat ≤ 0xFFF) :
    (a + BitVec.ofNat 16 (runLength x)).toNat = a.toNat + x.toNat + 1 := by
  rw [BitVec.toNat_add, BitVec.toNat_ofNat, runLength]
  omega

theorem read_dumped (s : State) {x r : Nibble} (h : r.toNat ≤ x.toNat) :
    Memory.read (Memory.writeBytes s.mem s.i.toNat (regRun s x)) (s.i.toNat + r.toNat) = s.reg r := by
  have hr : r.toNat < (regRun s x).length := by
    rw [regRun_length]
    omega
  rw [Memory.read_writeBytes_of_lt _ _ _ _ hr, regRun_getElem, State.reg]

theorem read_dumped_outside (s : State) (x : Nibble) {c : Nat} (h : c < s.i.toNat ∨ s.i.toNat + x.toNat < c) :
    Memory.read (Memory.writeBytes s.mem s.i.toNat (regRun s x)) c = Memory.read s.mem c :=
  Memory.read_writeBytes_outside _ _ (by rw [regRun_length]; omega)

/-- Each of the three bytes is a decimal digit of the register, not cut off to eight bits. -/
theorem bcdDigits_toNat (b : Byte) :
    (bcdDigits b).map BitVec.toNat = [b.toNat / 100, b.toNat / 10 % 10, b.toNat % 10] := by
  have hb := b.isLt
  simp only [bcdDigits, List.map_cons, List.map_nil]
  simp only [BitVec.toNat_ofNat, List.cons.injEq, and_true]
  omega

/-- The byte at place `k` of the digits of `b`, stored at `c`. -/
theorem read_bcdDigits_toNat (m : Memory) (c : Nat) (b : Byte) (k : Nat) (hk : k < 3) :
    (Memory.read (Memory.writeBytes m c (bcdDigits b)) (c + k)).toNat =
      [b.toNat / 100, b.toNat / 10 % 10, b.toNat % 10][k] := by
  rw [Memory.read_writeBytes_of_lt _ _ _ _ hk]
  simp only [← bcdDigits_toNat]
  exact (List.getElem_map _).symm

/-! ### The transfers (R89 to R91) -/

/-- Settles O34: the completion writes the run of three digits and no other byte. -/
theorem storeBcdWritesThreeDigits : Obligations.StoreBcdWritesThreeDigits := by
  refine fun x s => ⟨decodeOfEncode (.ldB x) rfl, fun h => ?_, fun h => ?_⟩
  · have hdigit := read_bcdDigits_toNat s.mem s.i.toNat (s.reg x)
    exact ⟨_, exec_ldB_of_le h, hdigit 0 (by decide), hdigit 1 (by decide), hdigit 2 (by decide),
      fun a ha => Memory.read_writeBytes_outside _ _ (by rw [bcdDigits_length]; omega), rfl, rfl,
      (unchangedExcept_setMem s _).goTo _⟩
  · exact ⟨_, exec_ldB_of_lt h, faultEntered_raiseFault s _ _⟩

/-- Settles O35: the completion writes the run of registers and no other byte. -/
theorem dumpStoresRegistersAndAdvancesI : Obligations.DumpStoresRegistersAndAdvancesI := by
  refine fun x s => ⟨decodeOfEncode (.dump x) rfl, fun h => ?_, fun h => ?_⟩
  · exact ⟨_, exec_dump_of_le h, fun r hr => read_dumped s hr, fun a ha => read_dumped_outside s x ha,
      add_runLength_toNat h, rfl, rfl, ((unchangedExcept_setMem s _).trans (unchangedExcept_setI _ _)).goTo _⟩
  · exact ⟨_, exec_dump_of_lt h, faultEntered_raiseFault s _ _⟩

/-- Settles O36: the completion writes the registers up to x, each from its byte, and keeps the others. -/
theorem loadReadsRegistersAndAdvancesI : Obligations.LoadReadsRegistersAndAdvancesI := by
  refine fun x s => ⟨decodeOfEncode (.load x) rfl, fun h => ?_, fun h => ?_⟩
  · exact ⟨_, exec_load_of_le h, loadedRegs_reg s x, add_runLength_toNat h, rfl, rfl,
      ((unchangedExcept_setRegs s _).trans (unchangedExcept_setI _ _)).goTo _⟩
  · exact ⟨_, exec_load_of_lt h, faultEntered_raiseFault s _ _⟩

/-- Settles O37: the load reads the bytes that the dump wrote (R90, then R91). -/
theorem loadAfterDumpRestoresRegisters : Obligations.LoadAfterDumpRestoresRegisters := by
  intro x s h
  obtain ⟨-, hdump, -⟩ := dumpStoresRegistersAndAdvancesI x s
  obtain ⟨t, ht, hbytes, -, hti, -⟩ := hdump h
  refine ⟨t, ht, fun u hmem hui => ?_⟩
  obtain ⟨-, hload, -⟩ := loadReadsRegistersAndAdvancesI x u
  obtain ⟨w, hw, hregs, hwi, -⟩ := hload (by rw [hui]; exact h)
  refine ⟨w, hw, BitVec.eq_of_toNat_eq (by rw [hwi, hui, hti]), fun r hr => ?_⟩
  calc w.reg r = Memory.read t.mem (s.i.toNat + r.toNat) := by rw [hregs, if_pos hr, hmem, hui]
    _ = s.reg r := hbytes r hr

/-! ### The setters of I (R85 to R87) -/

/-- Settles O31: I is written with the operand, zero-extended. -/
theorem setIndexZeroExtends : Obligations.SetIndexZeroExtends := by
  intro nnn s
  obtain ⟨t, ht, hi, hframe⟩ := writesIndex_of_exec_eq (i := .ldI nnn) (s := s) rfl
  exact ⟨decodeOfEncode (.ldI nnn) rfl, t, ht, by rw [hi, addrWord_toNat], hframe⟩

/-- Settles O32: the sum of 16-bit words is the sum modulo 2^16. -/
theorem addToIndexWrapsWithoutFlag : Obligations.AddToIndexWrapsWithoutFlag := by
  intro x s
  obtain ⟨t, ht, hi, hframe⟩ := writesIndex_of_exec_eq (i := .addI x) (s := s) rfl
  exact ⟨decodeOfEncode (.addI x) rfl, t, ht, by rw [hi, BitVec.toNat_add, byteWord_toNat], hframe⟩

theorem exec_ldF_of_le (h : (s.reg x).toNat ≤ 0x0F) :
    exec (.ldF x) s = .next (s.setI (glyphAddr (s.reg x).toNat)).advance := by
  simp only [exec, execLdF, hexIndex_of_le h]

theorem exec_ldF_of_lt (h : 0x0F < (s.reg x).toNat) :
    exec (.ldF x) s = .next (s.raiseFault .glyphIndexRange (byteWord (s.reg x))) := by
  simp only [exec, execLdF, hexIndex_of_lt h]

theorem glyphAddr_toNat {d : Nat} (h : d ≤ 0x0F) : (glyphAddr d).toNat = 5 * d :=
  (BitVec.toNat_ofNat _ _).trans (Nat.mod_eq_of_lt (by omega))

/-- Settles O33: a digit is a glyph index, and a register above 15 is fault entry. -/
theorem glyphAddressIsFiveTimesTheDigit : Obligations.GlyphAddressIsFiveTimesTheDigit := by
  refine fun x s => ⟨decodeOfEncode (.ldF x) rfl, fun h => ?_, fun h => ?_⟩
  · obtain ⟨t, ht, hi, hframe⟩ := writesIndex_of_exec_eq (exec_ldF_of_le h)
    exact ⟨t, ht, by rw [hi, glyphAddr_toNat h], hframe⟩
  · exact ⟨_, _, exec_ldF_of_lt h, byteWord_toNat _, faultEntered_raiseFault s _ _⟩

end Sys2Proof.Machine
end

section
/-! PROOFS. The framebuffer (43_display.md). A draw is the compositor on the list of the sprite's pixels: a pixel is in
that list when `SpriteCovers` says so, and no pixel is in it twice. The two laws of R96 follow from the statements about
a single clear-screen and a single draw. -/

namespace Sys2Proof.Machine

variable {s t : State} {x y n : Nibble} {py : Fin 32} {px : Fin 64}

/-! ### Clear-screen, and what a paint leaves unchanged (R93) -/

theorem unchangedExcept_paint (s : State) (fb : Framebuffer) : UnchangedExcept [.fb, .dirty] s (s.paint fb) := by
  intro p hp
  cases p
  case fb | dirty => exact absurd (by decide) hp
  case regs | mem => exact fun _ => rfl
  all_goals exact rfl

theorem UnchangedExcept.mono {parts parts' : List Part} (h : UnchangedExcept parts s t) (hsub : parts ⊆ parts') :
    UnchangedExcept parts' s t := fun p hp => h p (mt (@hsub p) hp)

/-- Settles O38: clear-screen paints the blank framebuffer and advances. -/
theorem clearScreenBlanksEveryPixel : Obligations.ClearScreenBlanksEveryPixel := fun s =>
  ⟨decodeOfEncode .cls rfl, _, rfl, blankFramebuffer_pixel, rfl, rfl, rfl, (unchangedExcept_paint s _).goTo _⟩

/-! ### The pixels of a draw (R94, R95) -/

/-- The pixels that `DRW Vx, Vy, n` flips in `s`, in the order of R94. -/
def drawPixels (s : State) (x y n : Nibble) : List (Fin 32 × Fin 64) :=
  spritePixels (originX (s.reg x)) (originY (s.reg y)) (spriteBytes s n)

/-- Reducing the origin first, as R94 does, places a pixel where reducing the sum does. -/
theorem mem_drawPixels : (py, px) ∈ drawPixels s x y n ↔ SpriteCovers s x y n py px := by
  simp only [drawPixels, mem_spritePixels, spriteBytes, Memory.length_readBytes, Memory.getElem_readBytes, originX,
    originY, Nat.mod_add_mod, SpriteCovers, exists_prop]

theorem drawPixels_nodup (s : State) (x y n : Nibble) : (drawPixels s x y n).Nodup := by
  refine spritePixels_nodup _ _ _ ?_
  have hn := n.isLt
  rw [spriteBytes, Memory.length_readBytes]
  omega

theorem draw_pixel_of_covers (h : SpriteCovers s x y n py px) :
    (composite s.fb (drawPixels s x y n)).1.pixel py px = !s.fb.pixel py px := by
  rw [composite_pixel s.fb (drawPixels_nodup s x y n), decide_eq_true (mem_drawPixels.mpr h), Bool.xor_true]

theorem draw_pixel_of_not_covers (h : ¬ SpriteCovers s x y n py px) :
    (composite s.fb (drawPixels s x y n)).1.pixel py px = s.fb.pixel py px := by
  rw [composite_pixel s.fb (drawPixels_nodup s x y n), decide_eq_false (mt mem_drawPixels.mp h), Bool.xor_false]

theorem draw_collision_iff :
    (composite s.fb (drawPixels s x y n)).2 = true ↔
      ∃ py px, SpriteCovers s x y n py px ∧ s.fb.pixel py px = true := by
  simp only [composite_collision s.fb (drawPixels_nodup s x y n), List.any_eq_true, Prod.exists, mem_drawPixels]

/-! ### A draw by its range check (20_memory.md R38) -/

/-- The state after a draw that the range check lets through. -/
def drawn (s : State) (x y n : Nibble) : State :=
  ((s.paint (composite s.fb (drawPixels s x y n)).1).setFlag (composite s.fb (drawPixels s x y n)).2).advance

theorem exec_drw_of_le (h : n.toNat = 0 ∨ s.i.toNat + n.toNat - 1 ≤ 0xFFF) :
    exec (.drw x y n) s = .next (drawn s x y n) := by
  refine if_pos ((rangeOk_iff _ _).mpr ?_)
  rw [Config.memSize]
  omega

theorem exec_drw_of_lt (hn : 0 < n.toNat) (h : 0xFFF < s.i.toNat + n.toNat - 1) :
    exec (.drw x y n) s = .next (s.raiseFault .memReadRange s.i) := by
  refine if_neg (mt (rangeOk_iff _ _).mp ?_)
  rw [Config.memSize]
  omega

theorem drawn_flag (s : State) (x y n : Nibble) :
    (drawn s x y n).reg 15 = flagByte (composite s.fb (drawPixels s x y n)).2 :=
  State.setReg_reg_self _ regVF _

theorem drawn_flag_of_collision (h : ∃ py px, SpriteCovers s x y n py px ∧ s.fb.pixel py px = true) :
    (drawn s x y n).reg 15 = 1#8 := by
  rw [drawn_flag, draw_collision_iff.mpr h, flagByte, if_pos rfl]

theorem drawn_flag_of_no_collision (h : ∀ py px, SpriteCovers s x y n py px → s.fb.pixel py px = false) :
    (drawn s x y n).reg 15 = 0#8 := by
  have hc : ¬ (composite s.fb (drawPixels s x y n)).2 = true := by
    rw [draw_collision_iff]
    rintro ⟨py, px, hcov, hon⟩
    exact Bool.false_ne_true ((h py px hcov).symm.trans hon)
  rw [drawn_flag, flagByte, if_neg hc]

theorem regsUnchangedExcept_drawn (s : State) (x y n : Nibble) : RegsUnchangedExcept [15] s (drawn s x y n) :=
  regsUnchangedExcept_setReg (s.paint _) regVF _

theorem unchangedExcept_drawn (s : State) (x y n : Nibble) :
    UnchangedExcept [.fb, .regs, .dirty, .pc, .status] s (drawn s x y n) := by
  have h : UnchangedExcept ([.fb, .dirty] ++ [.regs] ++ [.pc, .status]) s (drawn s x y n) :=
    ((unchangedExcept_paint s _).trans (unchangedExcept_setReg _ regVF _)).goTo _
  exact h.mono (by decide)

/-- Settles O39: a draw that the range check lets through is `drawn`, and any other is fault entry. -/
theorem drawFlipsCoveredPixels : Obligations.DrawFlipsCoveredPixels := by
  refine fun x y n s => ⟨decodeOfEncode (.drw x y n) rfl, fun h => ?_, fun hn h => ?_⟩
  · exact ⟨_, exec_drw_of_le h, fun _ _ => draw_pixel_of_covers, fun _ _ => draw_pixel_of_not_covers,
      drawn_flag_of_collision, drawn_flag_of_no_collision, regsUnchangedExcept_drawn s x y n, rfl, rfl, rfl,
      unchangedExcept_drawn s x y n⟩
  · exact ⟨_, exec_drw_of_lt hn h, faultEntered_raiseFault s _ _⟩

/-! ### Two instructions in succession (R96) -/

/-- What a draw covers depends on Memory, I and the two coordinates alone. -/
theorem spriteCovers_congr (hmem : Part.mem.same s t) (hi : t.i = s.i) (hx : t.reg x = s.reg x)
    (hy : t.reg y = s.reg y) : SpriteCovers t x y n py px ↔ SpriteCovers s x y n py px := by
  have hread : ∀ a, Memory.read t.mem a = Memory.read s.mem a := hmem
  simp only [SpriteCovers, hread, hi, hx, hy]

/-- Settles O40: clear-screen moves no sprite, and on a blank framebuffer a flipped pixel is on. -/
theorem drawOnClearedScreenShowsTheSprite : Obligations.DrawOnClearedScreenShowsTheSprite := by
  intro x y n s h
  obtain ⟨-, t, ht, hblank, -, -, -, hframe⟩ := clearScreenBlanksEveryPixel s
  have hi : t.i = s.i := hframe .index (by decide)
  have hregs : ∀ r, t.reg r = s.reg r := hframe .regs (by decide)
  have hcov : ∀ py px, SpriteCovers t x y n py px ↔ SpriteCovers s x y n py px := fun _ _ =>
    spriteCovers_congr (hframe .mem (by decide)) hi (hregs x) (hregs y)
  obtain ⟨-, hdraw, -⟩ := drawFlipsCoveredPixels x y n t
  obtain ⟨u, hu, hflip, hkeep, -, hnocoll, -⟩ := hdraw (by rw [hi]; exact h)
  refine ⟨t, u, ht, hu, hnocoll fun py px _ => hblank py px, fun py px => ?_⟩
  rw [← hcov]
  by_cases hc : SpriteCovers t x y n py px
  · exact iff_of_true (by rw [hflip py px hc, hblank, Bool.not_false]) hc
  · exact iff_of_false (by rw [hkeep py px hc, hblank]; exact Bool.false_ne_true) hc

/-- Settles O41: with neither coordinate in VF the second draw covers what the first did, and flips it back. -/
theorem drawTwiceRestoresTheScreen : Obligations.DrawTwiceRestoresTheScreen := by
  intro x y n s hx hy h
  obtain ⟨-, hfirst, -⟩ := drawFlipsCoveredPixels x y n s
  obtain ⟨t, ht, hflip, hkeep, -, -, hregs, -, -, -, hframe⟩ := hfirst h
  have hi : t.i = s.i := hframe .index (by decide)
  have hcov : ∀ py px, SpriteCovers t x y n py px ↔ SpriteCovers s x y n py px := fun _ _ =>
    spriteCovers_congr (hframe .mem (by decide)) hi (hregs x (mt List.mem_singleton.mp hx))
      (hregs y (mt List.mem_singleton.mp hy))
  obtain ⟨-, hsecond, -⟩ := drawFlipsCoveredPixels x y n t
  obtain ⟨u, hu, hflip', hkeep', hcoll, hnocoll, -⟩ := hsecond (by rw [hi]; exact h)
  refine ⟨t, u, ht, hu, Framebuffer.ext_pixel fun py px => ?_, fun hvf => ?_, ?_⟩
  · by_cases hc : SpriteCovers s x y n py px
    · rw [hflip' py px ((hcov py px).mpr hc), hflip py px hc, Bool.not_not]
    · rw [hkeep' py px (mt (hcov py px).mp hc), hkeep py px hc]
  · by_contra hnone
    have hoff : ∀ py px, SpriteCovers t x y n py px → t.fb.pixel py px = false := by
      intro py px hc
      rw [hcov] at hc
      rw [hflip py px hc, Bool.not_eq_false']
      exact Bool.of_not_eq_false fun hs => hnone ⟨py, px, hc, hs⟩
    exact absurd (hvf.symm.trans (hnocoll hoff)) (by decide)
  · rintro ⟨py, px, hc, hs⟩
    exact hcoll ⟨py, px, (hcov py px).mpr hc, by rw [hflip py px hc, hs, Bool.not_false]⟩

end Sys2Proof.Machine
end

section
/-! PROOFS. The key and timer instructions (44_keys_timers.md). A key skip is a skip or fault entry, as the key index
says; wait-for-key is a block or a register write, as the lowest key says; a timer move writes one register or timer and
advances. -/

namespace Sys2Proof.Machine

variable {s : State} {i : Instr} {x : Nibble} {k : Nat}

/-! ### What a block and a write of a timer leave unchanged -/

theorem unchangedExcept_block (s : State) : UnchangedExcept [.status] s s.block := by
  intro p hp
  cases p
  case status => exact absurd (by decide) hp
  case regs | mem => exact fun _ => rfl
  all_goals exact rfl

theorem unchangedExcept_setDt (s : State) (b : Byte) : UnchangedExcept [.dt] s (s.setDt b) := by
  intro p hp
  cases p
  case dt => exact absurd (by decide) hp
  case regs | mem => exact fun _ => rfl
  all_goals exact rfl

theorem unchangedExcept_setSt (s : State) (b : Byte) : UnchangedExcept [.st] s (s.setSt b) := by
  intro p hp
  cases p
  case st => exact absurd (by decide) hp
  case regs | mem => exact fun _ => rfl
  all_goals exact rfl

/-! ### Wait-for-key (R102) -/

/-- `lowestKey` finds the least pressed key: it can find neither a key above it nor none. -/
theorem lowestKey_eq_some (hk : k < 16) (hdown : s.keyDown k = true) (hleast : ∀ j, j < k → s.keyDown j = false) :
    lowestKey s = some k := by
  cases hl : lowestKey s with
  | none => exact absurd hdown (Bool.eq_false_iff.mp ((lowestKey_none s).mp hl k hk))
  | some m =>
    obtain ⟨-, hm, hbelow⟩ := lowestKey_some s hl
    have hkm : ¬ k < m := fun h => Bool.eq_false_iff.mp (hbelow k h) hdown
    have hmk : ¬ m < k := fun h => Bool.eq_false_iff.mp (hleast m h) hm
    exact congrArg some (by omega)

theorem exec_ldVxK_of_no_key (h : ∀ k, k < 16 → s.keyDown k = false) : exec (.ldVxK x) s = .next s.block := by
  simp only [exec, execLdVxK, (lowestKey_none s).mpr h]

theorem exec_ldVxK_of_lowestKey (h : lowestKey s = some k) :
    exec (.ldVxK x) s = .next (s.setReg x (BitVec.ofNat 8 k)).advance := by
  simp only [exec, execLdVxK, h]

theorem step_of_instrAtPc (hs : s.status ≠ .halted) (hi : InstrAtPc s i) : step s = exec i s := by
  obtain ⟨w, hf, hd⟩ := hi
  rw [step_of_fetch_some hs hf, runWord_of_decodes hd]

/-- Settles O43: with no key pressed the instruction is `block`, which the Step reports, and with a least pressed key it
is a register write. -/
theorem waitForKeyTakesTheLowestKey : Obligations.WaitForKeyTakesTheLowestKey := by
  refine fun x s => ⟨decodeOfEncode (.ldVxK x) rfl, fun hnone => ?_, fun hnone hs hi => ?_, fun k hk hdown hleast => ?_⟩
  · exact ⟨_, exec_ldVxK_of_no_key hnone, rfl, unchangedExcept_block s⟩
  · have hstep : step s = .next s.block := (step_of_instrAtPc hs hi).trans (exec_ldVxK_of_no_key hnone)
    obtain ⟨-, hblocked, -⟩ := reportNamesTheEnding s s.block hs hstep
    exact hblocked rfl
  · obtain ⟨t, ht, hx, hframe⟩ := writesReg_of_exec_eq (exec_ldVxK_of_lowestKey (lowestKey_eq_some hk hdown hleast))
    refine ⟨t, ht, ?_, hframe⟩
    rw [hx, BitVec.toNat_ofNat]
    omega

/-! ### The key skips (R100, R101) -/

theorem exec_skp_of_le (h : (s.reg x).toNat ≤ 0x0F) :
    exec (.skp x) s = .next (s.skipIf (s.keyDown (s.reg x).toNat)) := by
  simp only [exec, execSkp, hexIndex_of_le h]

theorem exec_skp_of_lt (h : 0x0F < (s.reg x).toNat) :
    exec (.skp x) s = .next (s.raiseFault .keyIndexRange (byteWord (s.reg x))) := by
  simp only [exec, execSkp, hexIndex_of_lt h]

theorem exec_sknp_of_le (h : (s.reg x).toNat ≤ 0x0F) :
    exec (.sknp x) s = .next (s.skipIf (!s.keyDown (s.reg x).toNat)) := by
  simp only [exec, execSknp, hexIndex_of_le h]

theorem exec_sknp_of_lt (h : 0x0F < (s.reg x).toNat) :
    exec (.sknp x) s = .next (s.raiseFault .keyIndexRange (byteWord (s.reg x))) := by
  simp only [exec, execSknp, hexIndex_of_lt h]

/-- Settles O42: a register of at most 15 is a key index, whose latch is the test, and one above is fault entry. -/
theorem keySkipsTestTheLatch : Obligations.KeySkipsTestTheLatch := by
  refine fun x s => ⟨decodeOfEncode (.skp x) rfl, decodeOfEncode (.sknp x) rfl, fun h => ⟨?_, ?_⟩, fun h => ⟨?_, ?_⟩⟩
  · exact skips_of_exec_eq (exec_skp_of_le h) Iff.rfl
  · exact skips_of_exec_eq (exec_sknp_of_le h) (Bool.not_eq_true' _).to_iff
  · exact ⟨_, _, exec_skp_of_lt h, byteWord_toNat _, faultEntered_raiseFault s _ _⟩
  · exact ⟨_, _, exec_sknp_of_lt h, byteWord_toNat _, faultEntered_raiseFault s _ _⟩

/-! ### The timer moves (R103 to R105) -/

/-- Settles O44: each move writes its one register or timer and advances. -/
theorem timerInstructionsMoveTheTimers : Obligations.TimerInstructionsMoveTheTimers := fun x s =>
  ⟨decodeOfEncode (.ldVxDt x) rfl, decodeOfEncode (.ldDtVx x) rfl, decodeOfEncode (.ldStVx x) rfl,
    writesReg_of_exec_eq rfl,
    ⟨_, rfl, rfl, rfl, rfl, (unchangedExcept_setDt s _).goTo _⟩,
    ⟨_, rfl, rfl, rfl, rfl, (unchangedExcept_setSt s _).goTo _⟩⟩

end Sys2Proof.Machine
end

section
/-! PROOFS. The unknown encodings (45_unknown.md): a word of SYS and a word of no row are one and the same counted no-op,
which the Step reports by the word. -/

namespace Sys2Proof.Machine

variable {s : State} {w : Word}

/-! ### The counted no-op (R108, R109) -/

theorem unchangedExcept_countUnknown (s : State) : UnchangedExcept [.unkCount] s s.countUnknown := by
  intro p hp
  cases p
  case unkCount => exact absurd (by decide) hp
  case regs | mem => exact fun _ => rfl
  all_goals exact rfl

theorem countedNop_counts_and_advances (s : State) :
    (countedNop s).unkCount = s.unkCount + 1 ∧ (countedNop s).pc = s.pc + 2#16 ∧ (countedNop s).status = .running ∧
      UnchangedExcept [.unkCount, .pc, .status] s (countedNop s) :=
  ⟨rfl, rfl, rfl, (unchangedExcept_countUnknown s).goTo _⟩

theorem runWord_of_isUnknownWord (hu : isUnknownWord w = true) : runWord w s = .next (countedNop s) := by
  obtain ⟨nnn, hd⟩ | ⟨r, hd⟩ := isUnknownWord_iff.mp hu
  · exact runWord_of_decodes hd
  · rw [runWord, hd, execUnknown]

theorem step_of_isUnknownWord (hs : s.status ≠ .halted) (hf : fetch s = some w) (hu : isUnknownWord w = true) :
    step s = .next (countedNop s) :=
  (step_of_fetch_some hs hf).trans (runWord_of_isUnknownWord hu)

/-- The no-op leaves RUNNING, and in RUNNING the report goes by the word. -/
theorem stepReport_of_isUnknownWord (hs : s.status ≠ .halted) (hf : fetch s = some w) (hu : isUnknownWord w = true) :
    stepReport s = some (.unknownNop w) := by
  rw [stepReport_of_fetch_some hs hf (step_of_isUnknownWord hs hf hu)]
  exact congrArg some (if_pos hu)

/-- Settles O6: the decoder rejects the listed words by name, and a rejected word is unknown. -/
theorem unknownWordIsCountedNop : Obligations.UnknownWordIsCountedNop := by
  intro s w hs hf hrow
  have hd : decodeWord w = .error (.unknown w) := decodeWord_eq_error_iff.mpr ⟨hrow, rfl⟩
  have hu : isUnknownWord w = true := isUnknownWord_iff.mpr (.inr ⟨_, hd⟩)
  exact ⟨hd, stepReport_of_isUnknownWord hs hf hu, _, step_of_isUnknownWord hs hf hu,
    countedNop_counts_and_advances s⟩

/-- Settles O47: SYS reads back its operand unless CLS or RET takes the word, and is the counted no-op. -/
theorem sysIsCountedNop : Obligations.SysIsCountedNop := by
  refine fun nnn s => ⟨fun hcls hret => ?_, ?_, fun w hs hf hd => ?_⟩
  · exact decodeOfEncode (.sys nnn) (wellFormed_sys_iff.mpr ⟨hcls, hret⟩)
  · exact ⟨_, rfl, countedNop_counts_and_advances s⟩
  · exact stepReport_of_isUnknownWord hs hf (isUnknownWord_iff.mpr (.inl ⟨nnn, hd⟩))

end Sys2Proof.Machine
end

section
/-! PROOFS. Faults, HALTED and the moves of the other two agents (60_exceptions.md). A Step halts by fault entry alone, a
Step in HALTED changes nothing, and Tick, SetKeys and AckDirty each write only their own pieces of state. -/

namespace Sys2Proof.Machine

variable {s t u : State} {parts : List Part}

/-! ### The Step that halts (R113) -/

theorem Ending.eq_raiseFault_of_halted {i : Instr} (h : Ending s i t) (ht : t.status = .halted) :
    ∃ cause info, cause ≠ .noFault ∧ t = s.raiseFault cause info := by
  cases h with
  | completes | blocks => cases ht
  | faults hr => exact ⟨_, _, hr.cause_ne_noFault, rfl⟩

/-- A Step enters HALTED by fault entry alone: at the fetch, or as the ending of the instruction at pc. -/
theorem step_eq_raiseFault_of_halted (hs : s.status ≠ .halted) (h : step s = .next t) (ht : t.status = .halted) :
    ∃ cause info, cause ≠ .noFault ∧ t = s.raiseFault cause info := by
  rcases step_cases h with ⟨hh, _⟩ | ⟨_, _, hfault⟩ | ⟨_, _, i, _, _, he⟩ | ⟨_, _, _, _, _, rfl⟩
  · exact absurd hh hs
  · exact ⟨_, _, by decide, hfault⟩
  · exact (ending_of_exec he).eq_raiseFault_of_halted ht
  · cases ht

/-- Settles O9: the state that the Step leaves is fault entry, and its report names the ending. -/
theorem faultingStepHasNoOtherEffect : Obligations.FaultingStepHasNoOtherEffect := by
  intro s t hs h ht
  obtain ⟨hreport, -, -⟩ := reportNamesTheEnding s t hs h
  obtain ⟨cause, info, hc, rfl⟩ := step_eq_raiseFault_of_halted hs h ht
  exact ⟨hc, faultEntered_raiseFault s cause info, hreport ht⟩

/-! ### What the moves of the other two agents leave unchanged (R120, R123, R124) -/

theorem unchangedExcept_tick (s : State) : UnchangedExcept [.dt, .st] s (tick s) := by
  intro p hp
  cases p
  case dt | st => exact absurd (by decide) hp
  case regs | mem => exact fun _ => rfl
  all_goals exact rfl

theorem unchangedExcept_setKeys (k : BitVec 16) (s : State) : UnchangedExcept [.key] s (setKeys k s) := by
  intro p hp
  cases p
  case key => exact absurd (by decide) hp
  case regs | mem => exact fun _ => rfl
  all_goals exact rfl

theorem unchangedExcept_ackDirty (s : State) : UnchangedExcept [.dirty] s (ackDirty s) := by
  intro p hp
  cases p
  case dirty => exact absurd (by decide) hp
  case regs | mem => exact fun _ => rfl
  all_goals exact rfl

theorem unchangedExcept_refl (parts : List Part) (s : State) : UnchangedExcept parts s s := by
  intro p _
  cases p
  case regs | mem => exact fun _ => rfl
  all_goals exact rfl

/-- One frame is kept along a run of moves. -/
theorem UnchangedExcept.trans_same (hst : UnchangedExcept parts s t) (htu : UnchangedExcept parts t u) :
    UnchangedExcept parts s u :=
  fun p hp => Part.same_trans (hst p hp) (htu p hp)

/-- Settles O46: each move is its one write, and the frame of that write. -/
theorem setKeysAndAckDirtyWriteOnlyTheirOwn : Obligations.SetKeysAndAckDirtyWriteOnlyTheirOwn := fun _ k s =>
  ⟨⟨_, rfl, fun _ => rfl, unchangedExcept_setKeys k s⟩, _, rfl, rfl, unchangedExcept_ackDirty s⟩

/-! ### Ticks (R120) -/

/-- One count of a timer: Nat subtraction stops at 0, as the timer does. -/
theorem countDown_toNat (b : Byte) : (if 0 < b.toNat then b - 1#8 else b).toNat = b.toNat - 1 := by
  have hb := b.isLt
  split
  · rw [byte_sub_toNat, BitVec.toNat_ofNat]; omega
  · omega

theorem performAll_cons (font : Vector Byte 80) (m : Move) (ms : List Move) (s : State) :
    performAll font (m :: ms) s = performAll font ms (stateAfter font m s) := rfl

theorem stateAfter_tick (font : Vector Byte 80) (s : State) : stateAfter font .tick s = tick s := rfl

/-- Settles O45, by induction on the number of Ticks. -/
theorem ticksCountBothTimersDown : Obligations.TicksCountBothTimersDown := by
  intro font n
  induction n with
  | zero => exact fun s => ⟨rfl, rfl, unchangedExcept_refl _ s⟩
  | succ n ih =>
    intro s
    obtain ⟨hdt, hst, hframe⟩ := ih (tick s)
    rw [tick_dt, countDown_toNat] at hdt
    rw [tick_st, countDown_toNat] at hst
    rw [List.replicate_succ, performAll_cons, stateAfter_tick]
    exact ⟨by omega, by omega, (unchangedExcept_tick s).trans_same hframe⟩

/-! ### HALTED is left by Reset alone (R115) -/

theorem step_of_halted (hs : s.status = .halted) : step s = .next s :=
  if_pos ((engineHalted_iff s).mpr hs)

/-- Every move but Reset, made in HALTED, writes at most what Tick, SetKeys and AckDirty write. -/
theorem unchangedExcept_stateAfter_of_halted (font : Vector Byte 80) {m : Move} (hs : s.status = .halted)
    (hm : ∀ p, Move.reset p ≠ m) : UnchangedExcept [.dt, .st, .key, .dirty] s (stateAfter font m s) := by
  cases m with
  | reset p => exact absurd rfl (hm p)
  | setKeys k => exact (unchangedExcept_setKeys k s).mono (by decide)
  | step =>
    rw [stateAfter, perform, step_of_halted hs]
    exact unchangedExcept_refl _ s
  | tick => exact (unchangedExcept_tick s).mono (by decide)
  | ackDirty => exact (unchangedExcept_ackDirty s).mono (by decide)

/-- Settles O10, by induction on the schedule: the status is outside the frame of a move, so the next move is made in
HALTED too. -/
theorem onlyResetLeavesHalted : Obligations.OnlyResetLeavesHalted := by
  intro font ms
  induction ms with
  | nil => exact fun s _ _ => unchangedExcept_refl _ s
  | cons m ms ih =>
    intro s hs hreset
    have hmove : UnchangedExcept [.dt, .st, .key, .dirty] s (stateAfter font m s) :=
      unchangedExcept_stateAfter_of_halted font hs fun p => List.ne_of_not_mem_cons (hreset p)
    have hstatus : (stateAfter font m s).status = s.status := hmove .status (by decide)
    exact hmove.trans_same (ih _ (hstatus.trans hs) fun p => List.not_mem_of_not_mem_cons (hreset p))

end Sys2Proof.Machine
end

section
/-! PROOFS. Reset and the settled program (70_reset_and_hazards.md). Memory after Reset is two runs of bytes, the font and
the program, over zero; a Step from a jump to itself goes where it already is. -/

namespace Sys2Proof.Machine

variable {program : List Byte} {s : State} {a : Nat}

/-! ### Memory after Reset (R131) -/

theorem read_resetMemory_program (font : Vector Byte 80) {k : Nat} (h : k < program.length) :
    Memory.read (resetMemory font program) (0x200 + k) = program[k] :=
  Memory.read_writeBytes_of_lt _ _ _ _ h

/-- Off the program's bytes, Memory after Reset holds what the font's load left there. -/
theorem read_resetMemory_off_program (font : Vector Byte 80) (h : a < 0x200 ∨ 0x200 + program.length ≤ a) :
    Memory.read (resetMemory font program) a = Memory.read (Memory.writeBytes [] 0 font.toList) a :=
  Memory.read_writeBytes_outside _ _ h

theorem read_resetMemory_font (font : Vector Byte 80) (program : List Byte) (h : a < 80) :
    Memory.read (resetMemory font program) a = font[a] := by
  have hlen : a < font.toList.length := by rwa [Vector.length_toList]
  have hread := Memory.read_writeBytes_of_lt [] font.toList 0 a hlen
  rw [Nat.zero_add, Vector.getElem_toList] at hread
  rw [read_resetMemory_off_program font (.inl (by omega)), hread]

/-- Above the font and off the program, Memory after Reset is zero. -/
theorem read_resetMemory_zero (font : Vector Byte 80) (hfont : 80 ≤ a)
    (hprogram : a < 0x200 ∨ 0x200 + program.length ≤ a) : Memory.read (resetMemory font program) a = 0#8 := by
  have habove : 0 + font.toList.length ≤ a := by rwa [Vector.length_toList, Nat.zero_add]
  rw [read_resetMemory_off_program font hprogram, Memory.read_writeBytes_outside _ _ (.inr habove)]
  exact Memory.background_of_le hfont

/-! ### Reset by the length of its program (R131) -/

theorem hostReset_of_le (font : Vector Byte 80) (s : State) (h : program.length ≤ 3584) :
    hostReset font program s = .next (State.resetWith font program s.draws) :=
  if_pos h

theorem hostReset_of_lt (font : Vector Byte 80) (s : State) (h : 3584 < program.length) :
    hostReset font program s = .refused (.programTooLong program.length) :=
  if_neg (Nat.not_le.mpr h)

theorem stateAfter_reset_of_lt (font : Vector Byte 80) (s : State) (h : 3584 < program.length) :
    stateAfter font (.reset program) s = s := by
  rw [stateAfter, perform, hostReset_of_lt font s h]

/-- Every piece of state but Memory and the draws is as in `State.reset`. -/
theorem resetValuesHold_resetWith (font : Vector Byte 80) (program : List Byte) (draws : Nat) :
    ResetValuesHold (State.resetWith font program draws) :=
  resetValuesHold_reset

/-- Settles O14: by the length of the program, Reset is `State.resetWith`, whose Memory is read region by region, or the
refusal. -/
theorem resetLoadsTheProgram : Obligations.ResetLoadsTheProgram := by
  refine fun font program s => ⟨fun hfits => ?_, fun hlong => ?_⟩
  · exact ⟨_, hostReset_of_le font s hfits, resetValuesHold_resetWith font program s.draws,
      fun _ h => read_resetMemory_font font program h,
      fun _ hfont hbelow => read_resetMemory_zero font hfont (.inl hbelow),
      fun _ h => read_resetMemory_program font h,
      fun _ habove _ => read_resetMemory_zero font (by omega) (.inr habove)⟩
  · exact ⟨hostReset_of_lt font s hlong, stateAfter_reset_of_lt font s hlong⟩

/-! ### The settled program (R138) -/

/-- A completion that goes where pc already stands, in RUNNING, changes nothing. -/
theorem goTo_pc_of_running (hs : s.status = .running) : s.goTo s.pc = s := by
  rw [State.goTo, ← hs]

/-- Settles O53: the Step is the jump, which goes to the pc that the state has. -/
theorem settledStepChangesNothing : Obligations.SettledStepChangesNothing := by
  rintro s a ⟨hpc, hrunning, hjump⟩
  have hs : s.status ≠ .halted := by rw [hrunning]; decide
  calc step s = exec (.jp a) s := step_of_instrAtPc hs hjump
    _ = .next (s.goTo s.pc) := by rw [hpc]; rfl
    _ = .next s := by rw [goTo_pc_of_running hrunning]

end Sys2Proof.Machine
end
